-- ==== Sys2Proof/Word.lean ====
section
/-! DEFINITION. The byte and word types of the DRC link engine (spec/00_scope.md R13) and the wire
constants that spec/30_encoding.md R100 gives bit-exact. -/

namespace Sys2Proof

/-- A byte is 8 bits (R13). -/
abbrev Byte := BitVec 8

/-- A word, and every host register, is 32 bits (R7, R13). -/
abbrev Word := BitVec 32

/-- Start delimiter (R100). -/
def SOP : Byte := 0x8D#8

/-- End delimiter (R100). -/
def EOP : Byte := 0xD8#8

/-- Escape marker (R100). -/
def ESC : Byte := 0xAB#8

/-- Escape mask (R100): a special byte and its substitute differ by it (R101). -/
def XMASK : Byte := 0x88#8

end Sys2Proof
end

