-- ==== Sys2Proof/Config.lean ====
section
/-! DEFINITION. What an implementation fixes: the three open parameters of spec/00_scope.md R6. The
spec gives no value for any of them (spec/92_eei_decisions.md D3, D4, D5), so each is a constant
without a body, inside the bounds R6 states (log entry 1). -/

namespace Sys2Proof

/-- The parameters of one block (R6). No step changes them (R57, R293). -/
structure Params where
  /-- P_RXMAX: capacity of the receive frame buffer, checksum included. -/
  rxMax : Nat
  /-- P_TXMAX: capacity of the transmit parameter buffer. -/
  txMax : Nat
  /-- P_BASE: host-bus byte address of the register window. -/
  base : Nat
  deriving DecidableEq, Repr

/-- The legal values of R6's table. -/
def Params.legal (p : Params) : Bool :=
  decide (8 ≤ p.rxMax) && decide (p.rxMax ≤ 256) && decide (1 ≤ p.txMax) && decide (p.txMax ≤ 256)
    && decide (p.base % 0x1000 = 0)

/-- HALT_PMAX: the halt descriptor holds at most 8 parameter bytes (R7). -/
def HALT_PMAX : Nat := 8

/-- P_RXMAX - 8; OPEN in the spec (D3). -/
opaque Config.rxMaxOver8 : Fin 249

/-- P_TXMAX - 1; OPEN in the spec (D4). -/
opaque Config.txMaxOver1 : Fin 256

/-- P_BASE / 0x1000; OPEN in the spec (D5). -/
opaque Config.basePage : Nat

/-- The parameters of the block that State.reset describes: any legal values (R6). -/
def Config.params : Params where
  rxMax := Config.rxMaxOver8.val + 8
  txMax := Config.txMaxOver1.val + 1
  base := 0x1000 * Config.basePage

end Sys2Proof
end

