-- ==== Sys2Proof/Syntax.lean ====
section
/-! DEFINITION. The instructions: one constructor per row of spec/opcode_table.json, in the table's
order. An instruction of this block is one step that a port asks for: a word the host writes to CMD,
CTRL or STATUS, a byte (or an escape pair) on the receive stream, or an edge of `force_stop`. -/

namespace Sys2Proof

/-- The rows of spec/opcode_table.json with the operands the spec reads from each. Bits that R121,
R122 and R158 say are ignored are no operands. -/
inductive Instr where
  /-- NOP, CMD OP 0x0 (R141). -/
  | nop
  /-- SEND, CMD OP 0x1, with SCLASS = CMD[6:4] (R142). -/
  | send (sclass : BitVec 3)
  /-- SEND_WAIT, CMD OP 0x2, with SCLASS and ECID = CMD[15:8] (R143). -/
  | sendWait (sclass : BitVec 3) (ecid : Byte)
  /-- WAIT, CMD OP 0x3, with ECID (R155). -/
  | wait (ecid : Byte)
  /-- CLEAR_COUNTERS, CMD OP 0x4 (R156). -/
  | clearCounters
  /-- RESERVED_OP, CMD OP 0x5 (R157). -/
  | reservedOp5
  /-- RESERVED_OP, CMD OP 0x6 and 0x7: `lo` is OP[0] (R157). -/
  | reservedOp6 (lo : BitVec 1)
  /-- RESERVED_OP, CMD OP 0x8 to 0xF: `lo` is OP[2:0] (R157). -/
  | reservedOp8 (lo : BitVec 3)
  /-- The wire byte 0x8D (R191, R196). -/
  | sop
  /-- The wire byte 0xD8 (R192). -/
  | eop
  /-- The wire byte 0xAB (R193). -/
  | esc
  /-- Every other wire byte (R194). -/
  | data (b : Byte)
  /-- The escape pair AB 05 (R101). -/
  | escSop
  /-- The escape pair AB 50 (R101). -/
  | escEop
  /-- The escape pair AB 23 (R101). -/
  | escEsc
  /-- The escape pair AB s for any other s (R102). -/
  | escOther (s : Byte)
  /-- A rising edge of the `force_stop` input (R180). -/
  | forceStop
  /-- A write to CTRL with bit 31 = 1 (R291). -/
  | softReset
  /-- A write to CTRL with bit 31 = 0: EN, NOTIFY_APPLY and DEBUG_TEE are bits 0, 1 and 2 (R158). -/
  | ctrlWrite (en notifyApply debugTee : Bool)
  /-- A write to STATUS: `mask` is bits 13:8 of the written word (R159). -/
  | statusW1c (mask : BitVec 6)
  deriving DecidableEq, Repr

end Sys2Proof
end

