-- ==== Sys2Proof/WellFormed.lean ====
section
/-! DEFINITION. Which instruction terms stand for an encoding: the DATA row excludes the three
special bytes, and the ESC_OTHER row the three canonical substitutes. -/

namespace Sys2Proof

/-- The bytes that have a row of their own: SOP, EOP and ESC (R100, R172). -/
def isSpecial (b : Byte) : Bool := b == SOP || b == EOP || b == ESC

/-- The substitutes that have a row of their own: 0x05, 0x50 and 0x23 (R100, R102). -/
def isSubstitute (s : Byte) : Bool := s == 0x05#8 || s == 0x50#8 || s == 0x23#8

/-- A well-formed instruction: one that some encoding of the table stands for. -/
def Instr.wf : Instr → Bool
  | .nop => true
  | .send _ => true
  | .sendWait _ _ => true
  | .wait _ => true
  | .clearCounters => true
  | .reservedOp5 => true
  | .reservedOp6 _ => true
  | .reservedOp8 _ => true
  | .sop => true
  | .eop => true
  | .esc => true
  | .data b => !isSpecial b
  | .escSop => true
  | .escEop => true
  | .escEsc => true
  | .escOther s => !isSubstitute s
  | .forceStop => true
  | .softReset => true
  | .ctrlWrite _ _ _ => true
  | .statusW1c _ => true

end Sys2Proof
end

