-- ==== Sys2Proof/Decode.lean ====
section
/-! DEFINITION. From the bits a port presents to an instruction, and back (spec/30_encoding.md,
spec/opcode_table.json). The decoder is total and rejects by name; the encoder writes the bits of
every well-formed instruction. -/

namespace Sys2Proof

/-- The bits a port presents for one step, tagged with the format (opcode_table.json "format"). -/
inductive Fetched where
  /-- A word the host writes to CMD (format CMD). -/
  | cmd (w : Word)
  /-- A word the host writes to CTRL (format CTRL_WRITE). -/
  | ctrl (w : Word)
  /-- A word the host writes to STATUS (format STATUS_WRITE). -/
  | status (w : Word)
  /-- A byte of the receive stream (format WIRE_BYTE). -/
  | wire (b : Byte)
  /-- Two consecutive bytes of the receive stream inside a frame, the first of them taken as the
  escape marker (format WIRE_PAIR). -/
  | pair (first second : Byte)
  /-- An edge of the `force_stop` input: 1 is a rising edge (format EVENT). -/
  | line (edge : BitVec 1)
  deriving DecidableEq, Repr

/-- Why bits are no instruction. -/
inductive DecodeError where
  /-- A pair whose first byte is not the escape marker (R102). -/
  | notAnEscapePair (first : Byte)
  /-- No rising edge: only a rising edge is a step (R270). -/
  | noRisingEdge
  deriving DecidableEq, Repr

/-- CMD[3:0] (R120). -/
def cmdOp (w : Word) : BitVec 4 := w.extractLsb' 0 4

/-- CMD[6:4] (R121). -/
def cmdSclass (w : Word) : BitVec 3 := w.extractLsb' 4 3

/-- CMD[15:8] (R122). -/
def cmdEcid (w : Word) : Byte := w.extractLsb' 8 8

/-- A CMD word selects exactly one row by its bits [3:0] (R123). -/
def decodeCmd (w : Word) : Instr :=
  match (cmdOp w).toNat with
  | 0 => .nop
  | 1 => .send (cmdSclass w)
  | 2 => .sendWait (cmdSclass w) (cmdEcid w)
  | 3 => .wait (cmdEcid w)
  | 4 => .clearCounters
  | 5 => .reservedOp5
  | 6 => .reservedOp6 (w.extractLsb' 0 1)
  | 7 => .reservedOp6 (w.extractLsb' 0 1)
  | _ => .reservedOp8 (w.extractLsb' 0 3)

/-- A CTRL word: bit 31 selects the soft reset (R158, R291). -/
def decodeCtrl (w : Word) : Instr :=
  if w.getLsbD 31 then .softReset else .ctrlWrite (w.getLsbD 0) (w.getLsbD 1) (w.getLsbD 2)

/-- A STATUS word (R159). -/
def decodeStatus (w : Word) : Instr := .statusW1c (w.extractLsb' 8 6)

/-- A byte that is not the second of an escape pair (R191, R192). -/
def decodeWire (b : Byte) : Instr :=
  if b = SOP then .sop else if b = EOP then .eop else if b = ESC then .esc else .data b

/-- The second byte of an escape pair: three canonical values, 253 others (R101, R102). -/
def decodeEscaped (s : Byte) : Instr :=
  if s = 0x05#8 then .escSop
  else if s = 0x50#8 then .escEop
  else if s = 0x23#8 then .escEsc
  else .escOther s

/-- The decoder: total on every bit pattern of every port. -/
def decode : Fetched → Except DecodeError Instr
  | .cmd w => .ok (decodeCmd w)
  | .ctrl w => .ok (decodeCtrl w)
  | .status w => .ok (decodeStatus w)
  | .wire b => .ok (decodeWire b)
  | .pair first second =>
    if first = ESC then .ok (decodeEscaped second) else .error (.notAnEscapePair first)
  | .line edge => if edge = 1#1 then .ok .forceStop else .error .noRisingEdge

/-- A field placed with its bit 0 at bit k of a word (R13). -/
def field {n : Nat} (v : BitVec n) (k : Nat) : Word := v.setWidth 32 <<< k

/-- A one-bit field at bit k of a word. -/
def flag (b : Bool) (k : Nat) : Word := field (BitVec.ofBool b) k

/-- A CMD word is `OP | SCLASS<<4 | ECID<<8` (R122); the bits that are ignored are written 0. -/
def cmdWord (op : BitVec 4) (sclass : BitVec 3) (ecid : Byte) : Word :=
  field op 0 ||| field sclass 4 ||| field ecid 8

/-- The OP of the RESERVED_OP row that covers 0x6 and 0x7. -/
def reservedOp6Code (lo : BitVec 1) : BitVec 4 := 0x6#4 ||| lo.setWidth 4

/-- The OP of the RESERVED_OP row that covers 0x8 to 0xF. -/
def reservedOp8Code (lo : BitVec 3) : BitVec 4 := 0x8#4 ||| lo.setWidth 4

/-- The encoder: the bits of each row, ignored bits written 0. -/
def encode : Instr → Fetched
  | .nop => .cmd (cmdWord 0x0#4 0 0)
  | .send sclass => .cmd (cmdWord 0x1#4 sclass 0)
  | .sendWait sclass ecid => .cmd (cmdWord 0x2#4 sclass ecid)
  | .wait ecid => .cmd (cmdWord 0x3#4 0 ecid)
  | .clearCounters => .cmd (cmdWord 0x4#4 0 0)
  | .reservedOp5 => .cmd (cmdWord 0x5#4 0 0)
  | .reservedOp6 lo => .cmd (cmdWord (reservedOp6Code lo) 0 0)
  | .reservedOp8 lo => .cmd (cmdWord (reservedOp8Code lo) 0 0)
  | .sop => .wire SOP
  | .eop => .wire EOP
  | .esc => .wire ESC
  | .data b => .wire b
  | .escSop => .pair ESC 0x05#8
  | .escEop => .pair ESC 0x50#8
  | .escEsc => .pair ESC 0x23#8
  | .escOther s => .pair ESC s
  | .forceStop => .line 1#1
  | .softReset => .ctrl 0x80000000#32
  | .ctrlWrite en notifyApply debugTee =>
    .ctrl (flag en 0 ||| flag notifyApply 1 ||| flag debugTee 2)
  | .statusW1c mask => .status (field mask 8)

/-- Bits numbered as opcode_table.json numbers them, given the format the table's widths tell apart.
Words of several formats coincide (a CMD word and a CTRL word are both 32 bits), and a bare word does
not say which port it stands on, so this is a convention (log entry 8): fewer than 8 bits are the
`force_stop` edge; 8 bits are a delimiter, an escape marker, a CMD word when below 0x10, or else a data
byte; up to 16 bits are an escape pair when their high byte is the escape marker (log entry 9), or else
a STATUS write; more bits are a soft reset when bit 31 is set, a CTRL write when the OP field is 0, or
else a CMD word. -/
def tableFetch (nbits w : Nat) : Fetched :=
  if nbits < 8 then .line (BitVec.ofNat 1 w)
  else if nbits ≤ 8 then
    let b : Byte := BitVec.ofNat 8 w
    if isSpecial b then .wire b
    else if b.toNat < 0x10 then .cmd (BitVec.ofNat 32 b.toNat)
    else .wire b
  else if nbits ≤ 16 then
    let h : BitVec 16 := BitVec.ofNat 16 w
    if h.extractLsb' 8 8 = ESC then .pair (h.extractLsb' 8 8) (h.extractLsb' 0 8)
    else .status (BitVec.ofNat 32 h.toNat)
  else
    let v : Word := BitVec.ofNat 32 w
    if v.getLsbD 31 then .ctrl v
    else if cmdOp v = 0#4 then .ctrl v
    else .cmd v

/-- The instruction the decoder reads from a row's bits, numbered as the table numbers them. -/
def decodeTableWord (nbits w : Nat) : Option Instr :=
  match decode (tableFetch nbits w) with
  | .ok i => some i
  | .error _ => none

end Sys2Proof
end

