-- ==== Sys2Proof/Machine/State.lean ====
section
/-! DEFINITION. Everything the spec gives the machine, as plain data (spec/10_state.md), the
environment it stands in (spec/00_scope.md R3, R10), and the state right after reset (R70). -/

namespace Sys2Proof.Machine

/-- A byte register window (TX_PARAM, HALT_PARAM) as (index, byte) pairs: indices strictly rise and no
entry holds 0, which is what an unlisted index reads as (R44 and R48 reset every slot to 0). -/
abbrev Memory := List Host.Cell

/-- The six event bits at positions 13:8 of STATUS (R36) and of IRQ_EN (R39). -/
structure EventBits where
  /-- bit 8 -/
  done : Bool
  /-- bit 9 -/
  opFail : Bool
  /-- bit 10 -/
  posUpd : Bool
  /-- bit 11 -/
  abort : Bool
  /-- bit 12 -/
  rxErr : Bool
  /-- bit 13 -/
  fstopDrop : Bool
  deriving DecidableEq, Repr

/-- The six event counters (R56). -/
structure Counters where
  ok : Word
  cksum : Word
  short : Word
  ovf : Word
  drop : Word
  skip : Word
  deriving DecidableEq, Repr

/-- OP_RESULT.CODE (R38, R260). -/
inductive ResultCode where
  | ok | notReady | busy | badOp | badClass | streamActive | streamInactive | streamUnconfigured
  deriving DecidableEq, Repr

/-- `rx_state` (R60). -/
inductive RxState where
  | hunt | body | esc
  deriving DecidableEq, Repr

/-- `tx_cur` (R61). -/
inductive TxCur where
  | idle | host | halt
  deriving DecidableEq, Repr

/-- `cur_op` (R62). -/
inductive CurOp where
  | none | send | sendWait | wait
  deriving DecidableEq, Repr

/-- A stream class: `cur_sclass` (R62) and the legal values of CMD.SCLASS (R121). -/
inductive StreamClass where
  | none | configure | start | stop
  deriving DecidableEq, Repr

/-- `stream` (R64). -/
inductive StreamState where
  | unconfigured | configured | active
  deriving DecidableEq, Repr

/-- The registers and the internal state of the block (10_state.md sections 2 and 3). ID and PARAMS
are constants, CMD and CTRL.SOFT_RESET hold nothing, and TX_BUSY, HALT_BUSY, WAITING, STREAM and irq are
computed from these fields (R65, R267). -/
structure Block where
  /-- CTRL.ENABLE (R35) -/
  enable : Bool
  /-- CTRL.NOTIFY_APPLY (R35) -/
  notifyApply : Bool
  /-- CTRL.DEBUG_TEE (R35) -/
  debugTee : Bool
  /-- STATUS[13:8] (R36) -/
  ev : EventBits
  /-- STATUS.REPLY_VALID (R36) -/
  replyValid : Bool
  /-- OP_RESULT.CODE (R38) -/
  resCode : ResultCode
  /-- OP_RESULT.OP (R38) -/
  resOp : BitVec 4
  /-- IRQ_EN[13:8] (R39) -/
  irqEn : EventBits
  /-- NOTIFY_SEL (R40) -/
  notifySel : BitVec 17
  /-- TX_HDR (R41) -/
  txHdr : Word
  /-- TX_AUX (R42) -/
  txAux : BitVec 24
  /-- TX_PLEN.COUNT (R43) -/
  txPlen : BitVec 9
  /-- TX_PARAM[] (R44) -/
  txParam : Memory
  /-- HALT_HDR (R45) -/
  haltHdr : Word
  /-- HALT_AUX (R46) -/
  haltAux : BitVec 24
  /-- HALT_CFG.PLEN (R47) -/
  haltPlen : BitVec 4
  /-- HALT_CFG.ARMED (R47) -/
  haltArmed : Bool
  /-- HALT_PARAM[] (R48) -/
  haltParam : Memory
  /-- RX_HDR (R49) -/
  rxHdr : Word
  /-- RX_AUX (R50) -/
  rxAux : BitVec 27
  /-- RX_PLEN (R51) -/
  rxPlen : BitVec 9
  /-- RX_PAYLOAD[] (R52): the payload bytes of the captured reply -/
  rxPayload : List Byte
  /-- POS_X (R53) -/
  posX : Word
  /-- POS_Y (R54) -/
  posY : Word
  /-- POS_INFO.TOKEN (R55) -/
  posToken : Byte
  /-- POS_INFO.X_VALID (R55) -/
  xValid : Bool
  /-- POS_INFO.Y_VALID (R55) -/
  yValid : Bool
  /-- POS_INFO.Y_FRESH (R55) -/
  yFresh : Bool
  /-- POS_INFO.POS_COUNT (R55) -/
  posCount : BitVec 16
  /-- CNT_OK, CNT_CKSUM, CNT_SHORT, CNT_OVF, CNT_DROP, CNT_SKIP (R56) -/
  cnt : Counters
  /-- `rx_state` (R60) -/
  rxState : RxState
  /-- `rx_buf` (R60) -/
  rxBuf : List Byte
  /-- `host_frame` (R61) -/
  hostFrame : Option (List Byte)
  /-- `halt_frame` (R61) -/
  haltFrame : Option (List Byte)
  /-- `tx_cur` (R61) -/
  txCur : TxCur
  /-- `tx_wire` (R61) -/
  txWire : List Byte
  /-- `tx_pos` (R61) -/
  txPos : Nat
  /-- `cur_op` (R62) -/
  curOp : CurOp
  /-- `cur_sclass` (R62) -/
  curSclass : StreamClass
  /-- `waiting` (R63) -/
  waiting : Bool
  /-- `expect_cid` (R63) -/
  expectCid : Byte
  /-- `stream` (R64) -/
  stream : StreamState
  deriving DecidableEq, Repr

/-- A statement of the host's program (30_encoding.md R130). An access is named by its byte offset from
P_BASE, which is what selects the register (R81; log entry 2), and by its width in bytes (R83). -/
inductive HostStmt where
  /-- `rd REG`: one host-bus read. -/
  | rd (off size : Nat)
  /-- `wr REG, v`: one host-bus write. -/
  | wr (off size : Nat) (v : Word)
  /-- `poll REG, m`: repeat `rd REG` until `(value AND m) ≠ 0`. -/
  | poll (off : Nat) (m : Word)
  /-- `pollz REG, m`: repeat `rd REG` until `(value AND m) = 0`. -/
  | pollz (off : Nat) (m : Word)
  deriving DecidableEq, Repr

/-- What the environment does next (R9, R10). -/
inductive Event where
  /-- The HOST agent's turn: one host-bus access of its program. -/
  | host
  /-- The peer puts a byte on the receive stream (R12). -/
  | peer (b : Byte)
  /-- The RX agent's turn. -/
  | rx
  /-- The TX agent's turn. -/
  | tx
  /-- From now on the transmit stream accepts a byte, or does not (R10). -/
  | txReady (level : Bool)
  /-- The `force_stop` input takes this level (R270). -/
  | forceStop (level : Bool)
  /-- An assertion of `rst` (R290). -/
  | rst
  deriving DecidableEq, Repr

/-- What the block answers to a host access. -/
inductive BusReply where
  /-- A read's value. -/
  | data (off : Nat) (v : Word)
  /-- A write is done. -/
  | written (off : Nat)
  /-- The error response to a wrong width or alignment, with the address (R83, R266). -/
  | busError (addr : Nat)
  deriving DecidableEq, Repr

/-- The direction of a mirrored byte (R283). -/
inductive Dir where
  | tx | rx
  deriving DecidableEq, Repr

/-- What stands outside the block at its ports (R3, R10, R80). -/
structure Env where
  /-- What the environment does next, first first (log entry 4). -/
  events : List Event
  /-- What is left of the host's program, next statement first (R130, R318; log entry 22). -/
  program : List HostStmt
  /-- The transmit stream accepts a byte now (R10, R175; log entry 23). -/
  txReady : Bool
  /-- The bytes waiting on the receive stream, next first (R99). -/
  rxChan : List Byte
  /-- The bytes put on the transmit stream, first first. -/
  txOut : List Byte
  /-- The pairs presented on the debug-tee port, first first (R283). -/
  tee : List (Dir × Byte)
  /-- The answers given on the host bus, first first. -/
  bus : List BusReply
  /-- The level of the `force_stop` input (R270). -/
  fstopPin : Bool
  deriving DecidableEq, Repr

/-- The machine: one block, its parameters, and its environment. -/
structure State where
  /-- P_RXMAX, P_TXMAX, P_BASE (R6): no step changes them. -/
  params : Params
  /-- The block. -/
  blk : Block
  /-- Its environment, which no reset of the block touches (R293). -/
  env : Env
  deriving DecidableEq, Repr

/-- Why the machine stops with a fault. -/
inductive Fault where
  /-- Raised by Machine/Fetch.lean for a host access at an offset of 0x1000 or more: the block does not
  decode it and the platform's behaviour is not given (R81). Safe: the model stops where the platform
  would go on (log entry 2). -/
  | outsideWindow (off : Nat)
  deriving DecidableEq, Repr

/-- Why the model gives no step. -/
inductive Refusal where
  /-- Raised by an arm of exec whose instruction has no meaning yet; no arm is. Safe. -/
  | notModelled (mnemonic : String)
  /-- Raised by step when the bits a port presents are no instruction; no fetch presents such bits.
  Safe. -/
  | notAnInstruction (e : DecodeError)
  deriving DecidableEq, Repr

/-- All six event bits 0. -/
def EventBits.none : EventBits :=
  { done := false, opFail := false, posUpd := false, abort := false, rxErr := false, fstopDrop := false }

/-- All six counters 0. -/
def Counters.zero : Counters := { ok := 0, cksum := 0, short := 0, ovf := 0, drop := 0, skip := 0 }

/-- Every register and internal variable at its reset value (R33, R60 to R64, R70). -/
def Block.reset : Block where
  enable := false
  notifyApply := false
  debugTee := false
  ev := EventBits.none
  replyValid := false
  resCode := .ok
  resOp := 0
  irqEn := EventBits.none
  notifySel := 0
  txHdr := 0
  txAux := 0
  txPlen := 0
  txParam := []
  haltHdr := 0
  haltAux := 0
  haltPlen := 0
  haltArmed := false
  haltParam := []
  rxHdr := 0
  rxAux := 0
  rxPlen := 0
  rxPayload := []
  posX := 0
  posY := 0
  posToken := 0
  xValid := false
  yValid := false
  yFresh := false
  posCount := 0
  cnt := Counters.zero
  rxState := .hunt
  rxBuf := []
  hostFrame := none
  haltFrame := none
  txCur := .idle
  txWire := []
  txPos := 0
  curOp := .none
  curSclass := .none
  waiting := false
  expectCid := 0
  stream := .unconfigured

/-- An environment in which nothing has happened and nothing is to come (log entries 4, 16, 17, 22, 23). -/
def Env.quiet : Env where
  events := []
  program := []
  txReady := true
  rxChan := []
  txOut := []
  tee := []
  bus := []
  fstopPin := false

/-- A block with parameters p right after reset. -/
def State.resetWith (p : Params) : State := { params := p, blk := Block.reset, env := Env.quiet }

/-- The machine right after reset (R70), for the open parameters of Config. -/
def State.reset : State := State.resetWith Config.params

end Sys2Proof.Machine
end

