-- ==== Sys2Proof/Machine/Flags.lean ====
section
/-! DEFINITION. Every flag the spec gives: the header flags byte (30_encoding.md R110), the checksum
(41_tx_encoder.md R170, 43_header_checksum.md R211), the STATUS bits (10_state.md R36, R65) and the
`irq` output (60_exceptions.md R267). -/

namespace Sys2Proof.Machine

/-- FLAGS bit 0, IS_RESPONSE (R110). -/
def isResponse (flags : Byte) : Bool := flags.getLsbD 0

/-- FLAGS bit 4, HAS_TARGET_ID (R110). -/
def hasTargetId (flags : Byte) : Bool := flags.getLsbD 4

/-- FLAGS bit 5, HAS_SOURCE_ID (R110). -/
def hasSourceId (flags : Byte) : Bool := flags.getLsbD 5

/-- The header length `4 + F[4] + F[5] + F[0]` (R111). -/
def hlen (flags : Byte) : Nat :=
  4 + (hasTargetId flags).toNat + (hasSourceId flags).toNat + (isResponse flags).toNat

/-- The sum of the bytes modulo 256 (R14). -/
def sum8 : List Byte → Byte
  | [] => 0
  | b :: bs => b + sum8 bs

/-- The checksum: the complement of the sum (R170). -/
def cks (xs : List Byte) : Byte := ~~~ sum8 xs

/-- TX_BUSY (R65). -/
def Block.txBusy (b : Block) : Bool := b.hostFrame.isSome || b.txCur == .host

/-- HALT_BUSY (R65). -/
def Block.haltBusy (b : Block) : Bool := b.haltFrame.isSome || b.txCur == .halt

/-- STATUS.STREAM (R36). -/
def StreamState.bits : StreamState → BitVec 2
  | .unconfigured => 0
  | .configured => 1
  | .active => 2

/-- The six bits at positions 13:8 of a word (R36, R39). -/
def EventBits.word (e : EventBits) : Word :=
  flag e.done 8 ||| flag e.opFail 9 ||| flag e.posUpd 10 ||| flag e.abort 11 ||| flag e.rxErr 12
    ||| flag e.fstopDrop 13

/-- The six bits read from positions 13:8, given as a 6-bit field (R39). -/
def EventBits.ofBits (m : BitVec 6) : EventBits where
  done := m.getLsbD 0
  opFail := m.getLsbD 1
  posUpd := m.getLsbD 2
  abort := m.getLsbD 3
  rxErr := m.getLsbD 4
  fstopDrop := m.getLsbD 5

/-- The `irq` output: some event bit is 1 and enabled (R267). -/
def Block.irq (b : Block) : Bool :=
  (b.ev.done && b.irqEn.done) || (b.ev.opFail && b.irqEn.opFail) || (b.ev.posUpd && b.irqEn.posUpd)
    || (b.ev.abort && b.irqEn.abort) || (b.ev.rxErr && b.irqEn.rxErr)
    || (b.ev.fstopDrop && b.irqEn.fstopDrop)

end Sys2Proof.Machine
end

