-- ==== Sys2Proof/Machine/Operands.lean ====
section
/-! DEFINITION. The operand forms: the fields of the descriptors and of NOTIFY_SEL (10_state.md R40 to
R47), the stream class of a CMD word (30_encoding.md R121), and the names of the host registers by
offset (R33). -/

namespace Sys2Proof.Machine

/-- FLAGS of a header word (R41, R45, R49). -/
def hdrFlags (h : Word) : Byte := h.extractLsb' 0 8

/-- DID of a header word. -/
def hdrDid (h : Word) : Byte := h.extractLsb' 8 8

/-- CID of a header word. -/
def hdrCid (h : Word) : Byte := h.extractLsb' 16 8

/-- SEQ of a header word. -/
def hdrSeq (h : Word) : Byte := h.extractLsb' 24 8

/-- TID of a descriptor's AUX (R42, R46). -/
def auxTid (a : BitVec 24) : Byte := a.extractLsb' 0 8

/-- SID of a descriptor's AUX. -/
def auxSid (a : BitVec 24) : Byte := a.extractLsb' 8 8

/-- ERR of a descriptor's AUX. -/
def auxErr (a : BitVec 24) : Byte := a.extractLsb' 16 8

/-- NOTIFY_SEL.NDID (R40). -/
def selNdid (n : BitVec 17) : Byte := n.extractLsb' 0 8

/-- NOTIFY_SEL.NCID (R40). -/
def selNcid (n : BitVec 17) : Byte := n.extractLsb' 8 8

/-- NOTIFY_SEL.MATCH_DID (R40). -/
def selMatchDid (n : BitVec 17) : Bool := n.getLsbD 16

/-- The stream class of CMD.SCLASS; the values 4 to 7 are reserved (R121). -/
def sclassOf (sc : BitVec 3) : Option StreamClass :=
  match sc.toNat with
  | 0 => some .none
  | 1 => some .configure
  | 2 => some .start
  | 3 => some .stop
  | _ => none

/-- OP_RESULT.CODE as a number (R38, R260). -/
def ResultCode.bits : ResultCode → BitVec 4
  | .ok => 0
  | .notReady => 1
  | .busy => 2
  | .badOp => 3
  | .badClass => 4
  | .streamActive => 5
  | .streamInactive => 6
  | .streamUnconfigured => 7

/-- The word with big-endian bytes a, b, c, d (R14, R86). -/
def be32 (a b c d : Byte) : Word := field a 24 ||| field b 16 ||| field c 8 ||| field d 0

/-- The host registers by name (R33). -/
inductive Reg where
  | id | ctrl | status | cmd | opResult | irqEn | notifySel
  | txHdr | txAux | txPlen | haltHdr | haltAux | haltCfg
  | rxHdr | rxAux | rxPlen | posX | posY | posInfo
  | cntOk | cntCksum | cntShort | cntOvf | cntDrop | cntSkip | params
  | rxPayload (i : Nat) | txParam (i : Nat) | haltParam (i : Nat)
  /-- Every other offset of the window (R58). -/
  | reserved
  deriving DecidableEq, Repr

/-- The single registers of R33's table. -/
def namedRegs : List (Nat × Reg) :=
  [(0x000, .id), (0x004, .ctrl), (0x008, .status), (0x00C, .cmd), (0x010, .opResult), (0x014, .irqEn),
   (0x018, .notifySel), (0x020, .txHdr), (0x024, .txAux), (0x028, .txPlen), (0x030, .haltHdr),
   (0x034, .haltAux), (0x038, .haltCfg), (0x040, .rxHdr), (0x044, .rxAux), (0x048, .rxPlen),
   (0x050, .posX), (0x054, .posY), (0x058, .posInfo), (0x060, .cntOk), (0x064, .cntCksum),
   (0x068, .cntShort), (0x06C, .cntOvf), (0x070, .cntDrop), (0x074, .cntSkip), (0x078, .params)]

/-- The register at a 4-byte-aligned offset of the window (R33, R58). -/
def regAt (p : Params) (off : Nat) : Reg :=
  match namedRegs.lookup off with
  | some r => r
  | none =>
    if 0x400 ≤ off ∧ off < 0x400 + 4 * p.rxMax then .rxPayload ((off - 0x400) / 4)
    else if 0x800 ≤ off ∧ off < 0x800 + 4 * p.txMax then .txParam ((off - 0x800) / 4)
    else if 0xC00 ≤ off ∧ off < 0xC00 + 4 * HALT_PMAX then .haltParam ((off - 0xC00) / 4)
    else .reserved

end Sys2Proof.Machine
end

