-- ==== Sys2Proof/Machine/Ops.lean ====
section
/-! DEFINITION. The named operations over the byte windows and the registers: reading and writing a
byte window, recording an event (what the block has instead of taking an exception, 60_exceptions.md
R273) and clearing one (what it has instead of returning, R274), the completion check, the debug
mirror, the bus answers and the reset. -/

namespace Sys2Proof.Machine

/-- What an unlisted slot of a byte window reads as: the reset value of R44 and R48. -/
def Memory.unlisted : Byte := 0

/-- The byte in slot i. -/
def Memory.read : Memory → Nat → Byte
  | [], _ => Memory.unlisted
  | (a, v) :: rest, i => if i = a then v else Memory.read rest i

/-- Store v in slot i, keeping the canonical form. -/
def Memory.write : Memory → Nat → Byte → Memory
  | [], i, v => if v = Memory.unlisted then [] else [(i, v)]
  | (a, x) :: rest, i, v =>
    if i < a then (if v = Memory.unlisted then (a, x) :: rest else (i, v) :: (a, x) :: rest)
    else if i = a then (if v = Memory.unlisted then rest else (i, v) :: rest)
    else (a, x) :: Memory.write rest i v

/-- Every index listed is above lo, indices strictly rise, and no entry holds the unlisted value. -/
def Memory.wfAbove : Option Nat → Memory → Bool
  | _, [] => true
  | lo, (a, v) :: rest =>
    (match lo with
      | none => true
      | some l => decide (l < a)) && v != Memory.unlisted && Memory.wfAbove (some a) rest

/-- The canonical form of a byte window. -/
def Memory.wf (m : Memory) : Bool := Memory.wfAbove none m

/-- Slots 0 to n - 1, in order (R149). -/
def Memory.slots (m : Memory) (n : Nat) : List Byte := (List.range n).map (Memory.read m)

/-- The start of every non-NOP CMD write (R144). -/
def beginOp (b : Block) : Block := { b with ev := { b.ev with done := false, opFail := false } }

/-- `fail(code, op)` (R148): the record of a refused operation. -/
def fail (code : ResultCode) (op : BitVec 4) (b : Block) : Block :=
  { b with resCode := code, resOp := op, ev := { b.ev with opFail := true } }

/-- The record of a receive error's STATUS bit (R264). -/
def raiseRxErr (b : Block) : Block := { b with ev := { b.ev with rxErr := true } }

/-- A W1C write: each bit written as 1 is cleared, no other changes (R159, R274). -/
def clearEvents (mask : BitVec 6) (e : EventBits) : EventBits where
  done := e.done && !mask.getLsbD 0
  opFail := e.opFail && !mask.getLsbD 1
  posUpd := e.posUpd && !mask.getLsbD 2
  abort := e.abort && !mask.getLsbD 3
  rxErr := e.rxErr && !mask.getLsbD 4
  fstopDrop := e.fstopDrop && !mask.getLsbD 5

/-- The completion check that follows every step of any agent (R153). -/
def completionCheck (b : Block) : Block :=
  if b.curOp ≠ .none ∧ b.txBusy = false ∧ b.waiting = false then
    { b with ev := { b.ev with done := true }, curOp := .none, curSclass := .none }
  else b

/-- The completion check on the block of a state. -/
def State.settle (s : State) : State := { s with blk := completionCheck s.blk }

/-- What step adds after an agent's step: the completion check (R153; log entry 10). -/
def settleOutcome : Host.Outcome State Fault Refusal → Host.Outcome State Fault Refusal
  | .next s => .next s.settle
  | .fault r => .fault r
  | .refused r => .refused r

/-- The same state with another block. -/
def State.withBlk (s : State) (b : Block) : State := { s with blk := b }

/-- The debug mirror (R177, R198): a byte is presented while DEBUG_TEE = 1. -/
def mirror (d : Dir) (x : Byte) (s : State) : State :=
  if s.blk.debugTee then { s with env := { s.env with tee := s.env.tee ++ [(d, x)] } } else s

/-- The block answers a host access. -/
def reply (r : BusReply) (s : State) : State :=
  { s with env := { s.env with bus := s.env.bus ++ [r] } }

/-- Every register and internal variable takes its reset value; nothing outside the block changes
(R290, R291, R293). -/
def resetBlock (s : State) : State := { s with blk := Block.reset }

end Sys2Proof.Machine
end

