-- ==== Sys2Proof/Machine/Frame.lean ====
section
/-! DEFINITION. The frame codec and the header interpreter as functions on bytes: the serialiser
(41_tx_encoder.md R171), the stuffing encoder (R172), and the header parse (43_header_checksum.md
R215). -/

namespace Sys2Proof.Machine

/-- The header of a frame from a descriptor's HDR and AUX (R171, R111). -/
def hdr (h : Word) (a : BitVec 24) : List Byte :=
  [hdrFlags h]
    ++ (if hasTargetId (hdrFlags h) then [auxTid a] else [])
    ++ (if hasSourceId (hdrFlags h) then [auxSid a] else [])
    ++ [hdrDid h, hdrCid h, hdrSeq h]
    ++ (if isResponse (hdrFlags h) then [auxErr a] else [])

/-- The content of a frame: header, n parameter bytes, checksum (R149, R171). -/
def build (h : Word) (a : BitVec 24) (n : Nat) (param : Memory) : List Byte :=
  let body := hdr h a ++ Memory.slots param n
  body ++ [cks body]

/-- One content byte on the wire (R172). -/
def escByte (b : Byte) : List Byte := if isSpecial b then [ESC, b ^^^ XMASK] else [b]

/-- The stuffed content without its delimiters (R103). -/
def stuffBody (content : List Byte) : List Byte := content.flatMap escByte

/-- The wire encoding of a frame's content (R172). -/
def stuff (content : List Byte) : List Byte := [SOP] ++ stuffBody content ++ [EOP]

/-- A parsed frame. An optional header field that is absent is `none` (its _V bit is 0). -/
structure RxFrame where
  flags : Byte
  tid : Option Byte
  sid : Option Byte
  did : Byte
  cid : Byte
  seq : Byte
  err : Option Byte
  payload : List Byte
  deriving DecidableEq, Repr

/-- `parse(body)` (R215), for a body of at least `hlen` bytes; `process_frame` calls it on no other
(R210; log entry 21). -/
def parse (body : List Byte) : RxFrame :=
  let flags := body.getD 0 0
  let i := 1
  let tid := if hasTargetId flags then some (body.getD i 0) else none
  let i := if hasTargetId flags then i + 1 else i
  let sid := if hasSourceId flags then some (body.getD i 0) else none
  let i := if hasSourceId flags then i + 1 else i
  let did := body.getD i 0
  let cid := body.getD (i + 1) 0
  let seq := body.getD (i + 2) 0
  let i := i + 3
  let err := if isResponse flags then some (body.getD i 0) else none
  let i := if isResponse flags then i + 1 else i
  { flags, tid, sid, did, cid, seq, err, payload := body.drop i }

end Sys2Proof.Machine
end

