-- ==== Sys2Proof/Machine/Registers.lean ====
section
/-! DEFINITION. Reading and writing the host registers (10_state.md R33 to R58; 40_host_ops.md R160,
R161). The writes to CTRL, STATUS and CMD are instructions and have their meanings elsewhere. -/

namespace Sys2Proof.Machine

/-- CTRL as a word: bits 31 and 30:3 read 0 (R35). -/
def ctrlWord (b : Block) : Word :=
  flag b.enable 0 ||| flag b.notifyApply 1 ||| flag b.debugTee 2

/-- STATUS as a word (R36). -/
def statusWord (b : Block) : Word :=
  flag b.txBusy 0 ||| flag b.waiting 1 ||| flag b.haltBusy 2 ||| flag b.replyValid 3
    ||| field b.stream.bits 4 ||| b.ev.word

/-- OP_RESULT as a word (R38). -/
def opResultWord (b : Block) : Word := field b.resCode.bits 0 ||| field b.resOp 8

/-- HALT_CFG as a word (R47). -/
def haltCfgWord (b : Block) : Word := field b.haltPlen 0 ||| flag b.haltArmed 31

/-- POS_INFO as a word (R55). -/
def posInfoWord (b : Block) : Word :=
  field b.posToken 0 ||| flag b.xValid 8 ||| flag b.yValid 9 ||| flag b.yFresh 10
    ||| field b.posCount 16

/-- PARAMS as a word (R57). -/
def paramsWord (p : Params) : Word :=
  field (BitVec.ofNat 9 p.rxMax) 0 ||| field (BitVec.ofNat 9 p.txMax) 16

/-- The value a read of a register returns. No read changes anything (R88). -/
def readReg (p : Params) (b : Block) : Reg → Word
  | .id => 0x44524C01#32
  | .ctrl => ctrlWord b
  | .status => statusWord b
  | .cmd => 0
  | .opResult => opResultWord b
  | .irqEn => b.irqEn.word
  | .notifySel => field b.notifySel 0
  | .txHdr => b.txHdr
  | .txAux => field b.txAux 0
  | .txPlen => field b.txPlen 0
  | .haltHdr => b.haltHdr
  | .haltAux => field b.haltAux 0
  | .haltCfg => haltCfgWord b
  | .rxHdr => b.rxHdr
  | .rxAux => field b.rxAux 0
  | .rxPlen => field b.rxPlen 0
  | .posX => b.posX
  | .posY => b.posY
  | .posInfo => posInfoWord b
  | .cntOk => b.cnt.ok
  | .cntCksum => b.cnt.cksum
  | .cntShort => b.cnt.short
  | .cntOvf => b.cnt.ovf
  | .cntDrop => b.cnt.drop
  | .cntSkip => b.cnt.skip
  | .params => paramsWord p
  | .rxPayload i => if i < b.rxPlen.toNat then field (b.rxPayload.getD i 0) 0 else 0
  | .txParam i => field (b.txParam.read i) 0
  | .haltParam i => field (b.haltParam.read i) 0
  | .reserved => 0

/-- The effect of a write to a register that starts nothing (R89, R160, R161). -/
def writeReg (p : Params) (v : Word) (b : Block) : Reg → Block
  | .irqEn => { b with irqEn := EventBits.ofBits (v.extractLsb' 8 6) }
  | .notifySel => { b with notifySel := v.extractLsb' 0 17 }
  | .txHdr => { b with txHdr := v }
  | .txAux => { b with txAux := v.extractLsb' 0 24 }
  | .txPlen => { b with txPlen := BitVec.ofNat 9 (min (v.extractLsb' 0 9).toNat p.txMax) }
  | .haltHdr => { b with haltHdr := v }
  | .haltAux => { b with haltAux := v.extractLsb' 0 24 }
  | .haltCfg =>
    { b with
      haltPlen := BitVec.ofNat 4 (min (v.extractLsb' 0 4).toNat HALT_PMAX)
      haltArmed := v.getLsbD 31 }
  | .txParam i => { b with txParam := b.txParam.write i (v.extractLsb' 0 8) }
  | .haltParam i => { b with haltParam := b.haltParam.write i (v.extractLsb' 0 8) }
  | .id => b
  | .ctrl => b
  | .status => b
  | .cmd => b
  | .opResult => b
  | .rxHdr => b
  | .rxAux => b
  | .rxPlen => b
  | .posX => b
  | .posY => b
  | .posInfo => b
  | .cntOk => b
  | .cntCksum => b
  | .cntShort => b
  | .cntOvf => b
  | .cntDrop => b
  | .cntSkip => b
  | .params => b
  | .rxPayload _ => b
  | .reserved => b

end Sys2Proof.Machine
end

