-- ==== Sys2Proof/Machine/HostOps.lean ====
section
/-! DEFINITION. The meanings of the host's instructions: the CMD writes (40_host_ops.md R140 to R157,
44_correlator.md R244), and the writes to CTRL and STATUS (R158, R159, 70_reset_and_hazards.md R291). -/

namespace Sys2Proof.Machine

/-- `stream_check(sc)` (R244). -/
def streamCheck : StreamClass → StreamState → ResultCode
  | .none, _ => .ok
  | .configure, .active => .streamActive
  | .configure, _ => .ok
  | .start, .unconfigured => .streamUnconfigured
  | .start, .configured => .ok
  | .start, .active => .streamActive
  | .stop, .active => .ok
  | .stop, _ => .streamInactive

/-- The checks on the channel and on the operation in flight that SEND, SEND_WAIT and WAIT share
(checks 2 and 3 of R145). -/
def readyCheck (b : Block) : ResultCode :=
  if b.enable = false then .notReady else if b.curOp ≠ .none then .busy else .ok

/-- The admission checks of SEND and SEND_WAIT in order (R145): the class to send with, or the code of
the first check that fails. -/
def admission (sclass : BitVec 3) (b : Block) : Except ResultCode StreamClass :=
  match sclassOf sclass with
  | none => .error .badClass
  | some cls =>
    match readyCheck b with
    | .ok =>
      match streamCheck cls b.stream with
      | .ok => .ok cls
      | code => .error code
    | code => .error code

/-- Arming the correlator (R150). -/
def arm (ecid : Byte) (b : Block) : Block :=
  { b with waiting := true, expectCid := ecid, replyValid := false }

/-- The host frame's content as the TX descriptor stands (R94, R149). -/
def hostContent (b : Block) : List Byte := build b.txHdr b.txAux b.txPlen.toNat b.txParam

/-- The result of an admitted operation (R142, R143, R155, R156). -/
def admitted (op : BitVec 4) (b : Block) : Block := { b with resCode := .ok, resOp := op }

/-- SEND on a block whose DONE and OP_FAIL have been cleared (R142). -/
def sendOp (sclass : BitVec 3) (b : Block) : Block :=
  match admission sclass b with
  | .error code => fail code 0x1 b
  | .ok cls =>
    admitted 0x1 { b with hostFrame := some (hostContent b), curSclass := cls, curOp := .send }

/-- SEND_WAIT on a block whose DONE and OP_FAIL have been cleared (R143). -/
def sendWaitOp (sclass : BitVec 3) (ecid : Byte) (b : Block) : Block :=
  match admission sclass b with
  | .error code => fail code 0x2 b
  | .ok cls =>
    admitted 0x2
      { arm ecid b with hostFrame := some (hostContent b), curSclass := cls, curOp := .sendWait }

/-- WAIT on a block whose DONE and OP_FAIL have been cleared (R155). -/
def waitOp (ecid : Byte) (b : Block) : Block :=
  match readyCheck b with
  | .ok => admitted 0x3 { arm ecid b with curOp := .wait }
  | code => fail code 0x3 b

/-- CLEAR_COUNTERS on a block whose DONE and OP_FAIL have been cleared (R156). -/
def clearCountersOp (b : Block) : Block :=
  if b.curOp ≠ .none then fail .busy 0x4 b
  else admitted 0x4 { b with cnt := Counters.zero, ev := { b.ev with done := true } }

/-- NOP: nothing (R141). -/
def execNop (s : State) : Host.Outcome State Fault Refusal := .next s

/-- SEND (R140, R142). -/
def execSend (sclass : BitVec 3) (s : State) : Host.Outcome State Fault Refusal :=
  .next (s.withBlk (sendOp sclass (beginOp s.blk)))

/-- SEND_WAIT (R140, R143). -/
def execSendWait (sclass : BitVec 3) (ecid : Byte) (s : State) : Host.Outcome State Fault Refusal :=
  .next (s.withBlk (sendWaitOp sclass ecid (beginOp s.blk)))

/-- WAIT (R140, R155). -/
def execWait (ecid : Byte) (s : State) : Host.Outcome State Fault Refusal :=
  .next (s.withBlk (waitOp ecid (beginOp s.blk)))

/-- CLEAR_COUNTERS (R140, R156). -/
def execClearCounters (s : State) : Host.Outcome State Fault Refusal :=
  .next (s.withBlk (clearCountersOp (beginOp s.blk)))

/-- The reserved OP 0x5 (R157). -/
def execReservedOp5 (s : State) : Host.Outcome State Fault Refusal :=
  .next (s.withBlk (fail .badOp 0x5 (beginOp s.blk)))

/-- The reserved OPs 0x6 and 0x7 (R157). -/
def execReservedOp6 (lo : BitVec 1) (s : State) : Host.Outcome State Fault Refusal :=
  .next (s.withBlk (fail .badOp (reservedOp6Code lo) (beginOp s.blk)))

/-- The reserved OPs 0x8 to 0xF (R157). -/
def execReservedOp8 (lo : BitVec 3) (s : State) : Host.Outcome State Fault Refusal :=
  .next (s.withBlk (fail .badOp (reservedOp8Code lo) (beginOp s.blk)))

/-- A write to CTRL with bit 31 = 1 (R158, R291). -/
def execSoftReset (s : State) : Host.Outcome State Fault Refusal := .next (resetBlock s)

/-- A write to CTRL with bit 31 = 0 (R158). -/
def execCtrlWrite (en notifyApply debugTee : Bool) (s : State) : Host.Outcome State Fault Refusal :=
  .next (s.withBlk { s.blk with enable := en, notifyApply := notifyApply, debugTee := debugTee })

/-- A write to STATUS (R159). -/
def execStatusW1c (mask : BitVec 6) (s : State) : Host.Outcome State Fault Refusal :=
  .next (s.withBlk { s.blk with ev := clearEvents mask s.blk.ev })

end Sys2Proof.Machine
end

