-- ==== Sys2Proof/Machine/Receive.lean ====
section
/-! DEFINITION. The receive agent (42_rx_decoder.md), frame processing (43_header_checksum.md R210 to
R214), the correlator (44_correlator.md R230 to R239), and the meanings of the wire bytes and of the
escape pairs. -/

namespace Sys2Proof.Machine

/-- `checksum_fail()` (R212). -/
def checksumFail (b : Block) : Block :=
  raiseRxErr { b with cnt := { b.cnt with cksum := b.cnt.cksum + 1 } }

/-- `short_frame()` (R213). -/
def shortFrame (b : Block) : Block :=
  raiseRxErr { b with cnt := { b.cnt with short := b.cnt.short + 1 } }

/-- RX_HDR of a captured frame (R232, R49). -/
def captureHdr (f : RxFrame) : Word :=
  field f.flags 0 ||| field f.did 8 ||| field f.cid 16 ||| field f.seq 24

/-- RX_AUX of a captured frame: an absent field reads 0 and its _V bit is 0 (R232, R50). -/
def captureAux (f : RxFrame) : BitVec 27 :=
  (field (f.tid.getD 0) 0 ||| field (f.sid.getD 0) 8 ||| field (f.err.getD 0) 16
    ||| flag f.tid.isSome 24 ||| flag f.sid.isSome 25 ||| flag f.err.isSome 26).setWidth 27

/-- `capture(F)` (R232). -/
def capture (f : RxFrame) (b : Block) : Block :=
  { b with
    rxHdr := captureHdr f
    rxAux := captureAux f
    rxPlen := BitVec.ofNat 9 f.payload.length
    rxPayload := f.payload
    waiting := false
    replyValid := true }

/-- `apply_position(F)` (R237). -/
def applyPosition (f : RxFrame) (b : Block) : Block :=
  let p := f.payload
  let hasY := p.length == 9
  { b with
    posToken := p.getD 0 0
    posX := be32 (p.getD 1 0) (p.getD 2 0) (p.getD 3 0) (p.getD 4 0)
    xValid := true
    posY := if hasY then be32 (p.getD 5 0) (p.getD 6 0) (p.getD 7 0) (p.getD 8 0) else b.posY
    yValid := if hasY then true else b.yValid
    yFresh := hasY
    posCount := b.posCount + 1
    ev := { b.ev with posUpd := true } }

/-- The frame is the reply that a pending wait expects (R230, R235). -/
def isMatch (f : RxFrame) (b : Block) : Bool := b.waiting && f.cid == b.expectCid

/-- The frame is a position notification to apply (R230, R236). -/
def isPosition (f : RxFrame) (b : Block) : Bool :=
  b.notifyApply && f.cid == selNcid b.notifySel
    && (!selMatchDid b.notifySel || f.did == selNdid b.notifySel) && decide (5 ≤ f.payload.length)

/-- `correlate(F)` (R230): both guards are read before either effect. -/
def correlate (f : RxFrame) (b : Block) : Block :=
  let matched := isMatch f b
  let position := isPosition f b
  let b1 := if matched then capture f b else b
  let b2 := if position then applyPosition f b1 else b1
  if !matched && !position then { b2 with cnt := { b2.cnt with drop := b2.cnt.drop + 1 } } else b2

/-- `process_frame(buf)` (R210). -/
def processFrame (buf : List Byte) (b : Block) : Block :=
  match buf.getLast? with
  | none => shortFrame b
  | some c =>
    let body := buf.dropLast
    if c ≠ cks body then checksumFail b
    else if body.length = 0 ∨ body.length < hlen (body.getD 0 0) then shortFrame b
    else correlate (parse body) { b with cnt := { b.cnt with ok := b.cnt.ok + 1 } }

/-- `overflow()` (R195). -/
def overflow (b : Block) : Block :=
  raiseRxErr
    { b with cnt := { b.cnt with ovf := b.cnt.ovf + 1 }, rxBuf := [], rxState := .hunt }

/-- `append(v)` (R194). -/
def appendByte (p : Params) (v : Byte) (b : Block) : Block :=
  if b.rxBuf.length = p.rxMax then overflow b else { b with rxBuf := b.rxBuf ++ [v] }

/-- The transition of the receive agent on one byte (R191 to R193, R197). -/
def rxByte (p : Params) (x : Byte) (b : Block) : Block :=
  match b.rxState with
  | .hunt =>
    if x = SOP then { b with rxBuf := [], rxState := .body }
    else { b with cnt := { b.cnt with skip := b.cnt.skip + 1 } }
  | .body =>
    if x = EOP then { processFrame b.rxBuf b with rxBuf := [], rxState := .hunt }
    else if x = ESC then { b with rxState := .esc }
    else appendByte p x b
  | .esc => appendByte p (x ^^^ XMASK) { b with rxState := .body }

/-- The RX agent's step on the byte x: mirror it, then the transition (R190, R198). While ENABLE = 0
the agent has no step (log entry 13). -/
def rxTake (x : Byte) (s : State) : State :=
  if s.blk.enable then
    let s1 := mirror .rx x s
    s1.withBlk (rxByte s.params x s1.blk)
  else s

/-- The escape pair [ESC, x] (R101, R102). In the receive state ESC its first byte has been taken, and
this is the RX step on its second byte: the only way step runs a pair, one byte a step (R9). In any
other receive state both bytes are still to be taken (log entry 7). -/
def rxPair (x : Byte) (s : State) : State :=
  match s.blk.rxState with
  | .esc => rxTake x s
  | .hunt => rxTake x (rxTake ESC s)
  | .body => rxTake x (rxTake ESC s)

/-- The byte 0x8D: starts a frame in HUNT, content in BODY (R191, R196). -/
def execSop (s : State) : Host.Outcome State Fault Refusal := .next (rxTake SOP s)

/-- The byte 0xD8: ends the frame in BODY, skipped in HUNT (R191, R192). -/
def execEop (s : State) : Host.Outcome State Fault Refusal := .next (rxTake EOP s)

/-- The byte 0xAB: the escape marker in BODY, skipped in HUNT (R191, R192). -/
def execEsc (s : State) : Host.Outcome State Fault Refusal := .next (rxTake ESC s)

/-- Every other byte: content in BODY, skipped in HUNT (R191, R194). -/
def execData (b : Byte) (s : State) : Host.Outcome State Fault Refusal := .next (rxTake b s)

/-- AB 05, content 0x8D (R101, R193). -/
def execEscSop (s : State) : Host.Outcome State Fault Refusal := .next (rxPair 0x05 s)

/-- AB 50, content 0xD8 (R101, R193). -/
def execEscEop (s : State) : Host.Outcome State Fault Refusal := .next (rxPair 0x50 s)

/-- AB 23, content 0xAB (R101, R193). -/
def execEscEsc (s : State) : Host.Outcome State Fault Refusal := .next (rxPair 0x23 s)

/-- AB x for any other x, content `x XOR 0x88` (R102, R193). -/
def execEscOther (x : Byte) (s : State) : Host.Outcome State Fault Refusal := .next (rxPair x s)

end Sys2Proof.Machine
end

