-- ==== Sys2Proof/Machine/Transmit.lean ====
section
/-! DEFINITION. The transmit agent (41_tx_encoder.md R174 to R179, 44_correlator.md R248) and the
meaning of a force-stop (R180 to R183). -/

namespace Sys2Proof.Machine

/-- The stream transition at the EOP of a host frame of this class (R248). -/
def streamAfter : StreamClass → StreamState → StreamState
  | .none, st => st
  | .configure, _ => .configured
  | .start, _ => .active
  | .stop, _ => .configured

/-- The choice of a frame when the transmitter is idle: a queued halt frame first, then a queued host
frame, else no step (R174, R175). -/
def startFrame (b : Block) : Option Block :=
  match b.txCur with
  | .idle =>
    match b.haltFrame, b.hostFrame with
    | some c, _ => some { b with txCur := .halt, txWire := stuff c, txPos := 0, haltFrame := none }
    | none, some c =>
      some { b with txCur := .host, txWire := stuff c, txPos := 0, hostFrame := none }
    | none, none => none
  | .host => some b
  | .halt => some b

/-- `frame_done` (R178, R179): the end of a host frame makes its stream transition and leaves no stream
class behind (R66; log entry 11); the end of a halt frame changes nothing here. -/
def frameDone (b : Block) : Block :=
  match b.txCur with
  | .host => { b with stream := streamAfter b.curSclass b.stream, curSclass := .none }
  | .halt => b
  | .idle => b

/-- The transmit position after the byte at `txPos` (R175). -/
def afterByte (b : Block) : Block :=
  if b.txPos + 1 = b.txWire.length then
    { frameDone b with txCur := .idle, txWire := [], txPos := 0 }
  else { b with txPos := b.txPos + 1 }

/-- The TX agent's step, if it has one: the byte it puts on the transmit stream and the block after it
(R174 to R176). A position outside `tx_wire`, which no run reaches, gives no step (log entry 12). -/
def txByte (b : Block) : Option (Byte × Block) :=
  if b.enable then
    match startFrame b with
    | none => none
    | some b1 =>
      match b1.txWire[b1.txPos]? with
      | none => none
      | some x => some (x, afterByte b1)
  else none

/-- The TX agent puts x on the transmit stream and mirrors it, and the block becomes b (R175, R177). -/
def emitTx (x : Byte) (b : Block) (s : State) : State :=
  (mirror .tx x { s with env := { s.env with txOut := s.env.txOut ++ [x] } }).withBlk b

/-- The halt frame's content as the halt descriptor stands (R95, R180). -/
def haltContent (b : Block) : List Byte := build b.haltHdr b.haltAux b.haltPlen.toNat b.haltParam

/-- The FSTOP step (R180): a halt is queued once, or the force-stop is recorded as dropped. -/
def forceStopOp (b : Block) : Block :=
  let b1 := { b with ev := { b.ev with abort := true } }
  if b1.enable && b1.haltArmed then
    match b1.haltFrame with
    | none => { b1 with haltFrame := some (haltContent b1) }
    | some _ => b1
  else { b1 with ev := { b1.ev with fstopDrop := true } }

/-- FORCE_STOP (R180 to R183). -/
def execForceStop (s : State) : Host.Outcome State Fault Refusal :=
  .next (s.withBlk (forceStopOp s.blk))

end Sys2Proof.Machine
end

