-- ==== Sys2Proof/Machine/Dispatch.lean ====
section
/-! DEFINITION. One arm per constructor of Instr: the meaning of each instruction. -/

namespace Sys2Proof.Machine

def exec (i : Instr) (s : State) : Host.Outcome State Fault Refusal :=
  match i with
  | .nop => Sys2Proof.Machine.execNop s
  | .send sclass => Sys2Proof.Machine.execSend sclass s
  | .sendWait sclass ecid => Sys2Proof.Machine.execSendWait sclass ecid s
  | .wait ecid => Sys2Proof.Machine.execWait ecid s
  | .clearCounters => Sys2Proof.Machine.execClearCounters s
  | .reservedOp5 => Sys2Proof.Machine.execReservedOp5 s
  | .reservedOp6 lo => Sys2Proof.Machine.execReservedOp6 lo s
  | .reservedOp8 lo => Sys2Proof.Machine.execReservedOp8 lo s
  | .sop => Sys2Proof.Machine.execSop s
  | .eop => Sys2Proof.Machine.execEop s
  | .esc => Sys2Proof.Machine.execEsc s
  | .data b => Sys2Proof.Machine.execData b s
  | .escSop => Sys2Proof.Machine.execEscSop s
  | .escEop => Sys2Proof.Machine.execEscEop s
  | .escEsc => Sys2Proof.Machine.execEscEsc s
  | .escOther x => Sys2Proof.Machine.execEscOther x s
  | .forceStop => Sys2Proof.Machine.execForceStop s
  | .softReset => Sys2Proof.Machine.execSoftReset s
  | .ctrlWrite en notifyApply debugTee => Sys2Proof.Machine.execCtrlWrite en notifyApply debugTee s
  | .statusW1c mask => Sys2Proof.Machine.execStatusW1c mask s

end Sys2Proof.Machine
end

