-- ==== Sys2Proof/Machine/Fetch.lean ====
section
/-! DEFINITION. What the machine's next step is: the event the environment has chosen (00_scope.md R9,
R10), read as bits on a port to decode, or carried out by a named operation when it is no row of the
opcode table. Also how bits are placed so that the very next step fetches them. -/

namespace Sys2Proof.Machine

/-- The next step. -/
inductive Turn where
  /-- Bits on a port, and the state after fetching them. -/
  | present (f : Fetched) (s : State)
  /-- A step that is no instruction, or no step at all: its outcome. -/
  | done (o : Host.Outcome State Fault Refusal)

/-- The access is a 32-bit access at a 4-byte-aligned offset (R82, R83). -/
def accessOk (off size : Nat) : Bool := size == 4 && off % 4 == 0

/-- A host write (R81 to R83, R89): CMD, CTRL and STATUS words are instructions, any other register
stores its fields; a wrong width or alignment is a BusError and changes no register (log entry 3). -/
def hostWrite (off size : Nat) (v : Word) (s : State) : Turn :=
  if 0x1000 ≤ off then .done (.fault (.outsideWindow off))
  else if accessOk off size then
    let s1 := reply (.written off) s
    match regAt s.params off with
    | .cmd => .present (.cmd v) s1
    | .ctrl => .present (.ctrl v) s1
    | .status => .present (.status v) s1
    | r => .done (.next (s1.withBlk (writeReg s.params v s.blk r)).settle)
  else .done (.next (reply (.busError (s.params.base + off)) s))

/-- A host read (R81 to R83, R88). -/
def hostRead (off size : Nat) (s : State) : Turn :=
  if 0x1000 ≤ off then .done (.fault (.outsideWindow off))
  else if accessOk off size then
    .done (.next (reply (.data off (readReg s.params s.blk (regAt s.params off))) s).settle)
  else .done (.next (reply (.busError (s.params.base + off)) s))

/-- Whether a poll is over: `poll` waits for a nonzero masked value, `pollz` for a zero one (R130). -/
def pollMet (zero : Bool) (m v : Word) : Bool := ((v &&& m) == 0) == zero

/-- One read of a `poll` or `pollz` (R130): the statement is over when its condition holds, and otherwise
it stays the program's next statement. `s` is the state with the statement taken off the program. -/
def hostPoll (zero : Bool) (off : Nat) (m : Word) (st : HostStmt) (s : State) : Turn :=
  if 0x1000 ≤ off then .done (.fault (.outsideWindow off))
  else if accessOk off 4 then
    let v := readReg s.params s.blk (regAt s.params off)
    let left := if pollMet zero m v then s.env.program else st :: s.env.program
    .done (.next (reply (.data off v) { s with env := { s.env with program := left } }).settle)
  else .done (.next (reply (.busError (s.params.base + off)) s))

/-- One statement of the host's program, in the state with it taken off (R130). -/
def hostStmt (st : HostStmt) (s : State) : Turn :=
  match st with
  | .rd off size => hostRead off size s
  | .wr off size v => hostWrite off size v s
  | .poll off m => hostPoll false off m st s
  | .pollz off m => hostPoll true off m st s

/-- The HOST agent's turn: one access of its program, or nothing when the program is over (log entries
5 and 22). -/
def hostTurn (s : State) : Turn :=
  match s.env.program with
  | [] => .done (.next s)
  | st :: more => hostStmt st { s with env := { s.env with program := more } }

/-- How a received byte is read: after an escape marker it is the second byte of a pair (R193, R197;
log entry 6). -/
def rxFetched (st : RxState) (x : Byte) : Fetched :=
  match st with
  | .esc => .pair ESC x
  | .hunt => .wire x
  | .body => .wire x

/-- The RX agent's turn: it has a step when ENABLE = 1 and a byte waits (R190); otherwise nothing
happens and the byte stays in the channel (R19, R99; log entry 5). -/
def rxTurn (s : State) : Turn :=
  if s.blk.enable then
    match s.env.rxChan with
    | [] => .done (.next s)
    | x :: rest =>
      .present (rxFetched s.blk.rxState x) { s with env := { s.env with rxChan := rest } }
  else .done (.next s)

/-- The TX agent's turn: its step when it has one and the transmit stream accepts a byte (R174 to R176),
and otherwise nothing (log entry 5). -/
def txTurn (s : State) : State :=
  if s.env.txReady then
    match txByte s.blk with
    | none => s
    | some (x, b) => (emitTx x b s).settle
  else s

/-- The `force_stop` input takes a level: only a rising edge is a step (R270). -/
def forceStopTurn (level : Bool) (s : State) : Turn :=
  let s1 := { s with env := { s.env with fstopPin := level } }
  if level && !s.env.fstopPin then .present (.line 1#1) s1 else .done (.next s1)

/-- One event of the environment. -/
def eventTurn (e : Event) (s : State) : Turn :=
  match e with
  | .host => hostTurn s
  | .peer b => .done (.next { s with env := { s.env with rxChan := s.env.rxChan ++ [b] } })
  | .rx => rxTurn s
  | .tx => .done (.next (txTurn s))
  | .txReady level => .done (.next { s with env := { s.env with txReady := level } })
  | .forceStop level => forceStopTurn level s
  | .rst => .done (.next (resetBlock s))

/-- The machine's next step. With no event to come nothing happens (log entry 4). -/
def fetch (s : State) : Turn :=
  match s.env.events with
  | [] => .done (.next s)
  | e :: rest => eventTurn e { s with env := { s.env with events := rest } }

/-- Make e the next event. -/
def nextEvent (e : Event) (s : State) : State :=
  { s with env := { s.env with events := e :: s.env.events } }

/-- Make st the next host access. -/
def nextStmt (st : HostStmt) (s : State) : State :=
  nextEvent .host { s with env := { s.env with program := st :: s.env.program } }

/-- Make x the next received byte, for a receive agent that may take it in state st. -/
def nextByte (st : RxState) (x : Byte) (s : State) : State :=
  nextEvent .rx
    { s with
      blk := { s.blk with enable := true, rxState := st }
      env := { s.env with rxChan := x :: s.env.rxChan } }

/-- Place bits where the very next step fetches them: a host write of the word; a byte at the head of
the receive channel with ENABLE = 1 and the RX agent's turn next, the receive state being ESC exactly
for the second byte of a pair; a rising edge of `force_stop`. -/
def placeBits (f : Fetched) (s : State) : State :=
  match f with
  | .cmd w => nextStmt (.wr 0x00C 4 w) s
  | .ctrl w => nextStmt (.wr 0x004 4 w) s
  | .status w => nextStmt (.wr 0x008 4 w) s
  | .wire x => nextByte (if s.blk.rxState = .esc then .body else s.blk.rxState) x s
  | .pair _ x => nextByte .esc x s
  | .line e =>
    nextEvent (.forceStop (e == 1#1)) { s with env := { s.env with fstopPin := false } }

end Sys2Proof.Machine
end

