-- ==== Sys2Proof/Machine/Step.lean ====
section
/-! DEFINITION. One step of the machine: fetch what the environment presents next, decode it, run its
meaning, and make the completion check. -/

namespace Sys2Proof.Machine

/-- Carry out a turn: its outcome, or the decoded instruction's meaning and the completion check. -/
def runTurn (t : Turn) : Host.Outcome State Fault Refusal :=
  match t with
  | .done o => o
  | .present f s1 =>
    match decode f with
    | .ok i => settleOutcome (exec i s1)
    | .error e => .refused (.notAnInstruction e)

/-- One step. -/
def step (s : State) : Host.Outcome State Fault Refusal := runTurn (fetch s)

/-- The state with an instruction of the opcode table placed where step fetches next (log entry 8). -/
def State.withFetchWord (s : State) (nbits w : Nat) : State := placeBits (tableFetch nbits w) s

end Sys2Proof.Machine
end

