-- ==== Sys2Proof/Safety.lean ====
section
/-! DEFINITION. What a good state is, in the terms the statements use: the invariants of
spec/10_state.md R66 and of the register fields, the canonical form of the byte windows, and when a run has
ended or hangs (spec/00_scope.md R19, spec/70_reset_and_hazards.md R318). -/

namespace Sys2Proof.Machine

/-- The operation in flight sends a frame. -/
def CurOp.sends (o : CurOp) : Bool := o == .send || o == .sendWait

/-- The operation in flight waits for a reply. -/
def CurOp.waits (o : CurOp) : Bool := o == .sendWait || o == .wait

/-- The invariants of R66, line by line. -/
structure State.OpInv (s : State) : Prop where
  rxBuf_le : s.blk.rxBuf.length ≤ s.params.rxMax
  waiting_op : s.blk.waiting = true → s.blk.curOp.waits = true
  frame_op : s.blk.hostFrame ≠ none ∨ s.blk.txCur = .host → s.blk.curOp.sends = true
  none_idle : s.blk.curOp = .none →
    s.blk.waiting = false ∧ s.blk.hostFrame = none ∧ s.blk.txCur ≠ .host
  sclass_op : s.blk.curSclass ≠ .none →
    s.blk.curOp.sends = true ∧ (s.blk.hostFrame ≠ none ∨ s.blk.txCur = .host)
  idle_empty : s.blk.txCur = .idle → s.blk.txPos = 0 ∧ s.blk.txWire = []

/-- The bounds the register rules state: legal parameters (R6), TX_PLEN (R43), HALT_CFG.PLEN (R47),
rx_buf (R60), RX_PLEN and RX_PAYLOAD (R51, R52). -/
structure State.RegInv (s : State) : Prop where
  params_legal : s.params.legal = true
  txPlen_le : s.blk.txPlen.toNat ≤ s.params.txMax
  haltPlen_le : s.blk.haltPlen.toNat ≤ HALT_PMAX
  rxBuf_le : s.blk.rxBuf.length ≤ s.params.rxMax
  rxPlen_le : s.blk.rxPlen.toNat ≤ s.params.rxMax - 5
  rxPlen_eq : s.blk.rxPayload.length = s.blk.rxPlen.toNat

/-- Both byte windows are in canonical form. -/
structure State.MemInv (s : State) : Prop where
  txParam_wf : s.blk.txParam.wf = true
  haltParam_wf : s.blk.haltParam.wf = true

/-- While an operation is in flight it still has something to wait for, and DONE is 0 (R152, R153). -/
structure State.FlightInv (s : State) : Prop where
  in_flight : s.blk.curOp ≠ .none → s.blk.txBusy = true ∨ s.blk.waiting = true
  done_zero : s.blk.curOp ≠ .none → s.blk.ev.done = false

/-- A frame being emitted has a byte left to emit. -/
def State.WireInv (s : State) : Prop :=
  s.blk.txCur ≠ .idle → s.blk.txPos < s.blk.txWire.length

/-- The TX agent has an enabled step: a frame queued or in progress, ENABLE = 1, and a transmit stream
that accepts a byte (R175, R176). -/
def State.txEnabled (s : State) : Bool :=
  s.blk.enable && s.env.txReady &&
    (s.blk.hostFrame.isSome || s.blk.haltFrame.isSome || s.blk.txCur != .idle)

/-- The RX agent has an enabled step: ENABLE = 1 and a byte waits (R190). -/
def State.rxEnabled (s : State) : Bool := s.blk.enable && !s.env.rxChan.isEmpty

/-- Every event but a turn of an agent brings something new from outside. -/
def Event.isTurn : Event → Bool
  | .host => true
  | .rx => true
  | .tx => true
  | .txReady _ => false
  | .peer _ => false
  | .forceStop _ => false
  | .rst => false

/-- No agent of the block has an enabled step, and the environment brings nothing that gives it one: no
byte, no acceptance, no edge, no reset (R318; log entry 24). -/
def State.quiescent (s : State) : Prop :=
  s.txEnabled = false ∧ s.rxEnabled = false ∧ s.env.events.all Event.isTurn = true

/-- The program stands at a poll of a register of the window whose condition does not hold (R130). -/
def State.polling (s : State) : Bool :=
  match s.env.program with
  | .poll off m :: _ =>
    decide (off < 0x1000) && accessOk off 4
      && !pollMet false m (readReg s.params s.blk (regAt s.params off))
  | .pollz off m :: _ =>
    decide (off < 0x1000) && accessOk off 4
      && !pollMet true m (readReg s.params s.blk (regAt s.params off))
  | _ => false

/-- The run has ended: the program's last statement has executed, no agent has an enabled step (R318), and
no wait is left unanswered, which would be a hang (R19; log entry 24). -/
def State.ended (s : State) : Prop :=
  s.env.program = [] ∧ s.blk.waiting = false ∧ s.quiescent

/-- The run hangs: nothing is left that could change the block, and the program is at a poll that so never
returns (R318), or it is over with a wait that is never answered (R19; log entry 24). It is neither a fault,
nor a refusal, nor an end. -/
def State.hung (s : State) : Prop :=
  (s.polling = true ∨ (s.env.program = [] ∧ s.blk.waiting = true)) ∧ s.quiescent

end Sys2Proof.Machine
end

