-- ==== Sys2Proof/Certificates/Slice0/Obligations.lean ====
section
/-! DEFINITION. The statements for the provers. Each docstring names the rule of spec/ it formalises, or
says that it is the model's own. The helpers below write out, from the rules, the states that the
statements speak of. -/

open Sys2Proof Sys2Proof.Machine

namespace Sys2Proof.Statements

/-- A refused operation: OP_RESULT and OP_FAIL written, DONE cleared with the CMD write, nothing else
(R144, R148). -/
def refusedState (code : ResultCode) (op : BitVec 4) (s : State) : State :=
  { s with
    blk := { s.blk with
      resCode := code
      resOp := op
      ev := { s.blk.ev with done := false, opFail := true } } }

/-- The debug-tee stream after the byte x in direction d (R177, R198). -/
def teeAfter (d : Dir) (x : Byte) (s : State) : List (Dir × Byte) :=
  if s.blk.debugTee then s.env.tee ++ [(d, x)] else s.env.tee

/-- The state after the RX agent took x and the block became b. -/
def tookByte (x : Byte) (b : Block) (s : State) : State :=
  { s with blk := b, env := { s.env with tee := teeAfter .rx x s } }

/-- The state after the next event, `rest` being the events after it. -/
def dropEvent (rest : List Event) (s : State) : State :=
  { s with env := { s.env with events := rest } }

/-- The state after the TX agent put x on the transmit stream and the block became b. -/
def sentByte (x : Byte) (b : Block) (rest : List Event) (s : State) : State :=
  { s with
    blk := b
    env := { s.env with events := rest, txOut := s.env.txOut ++ [x], tee := teeAfter .tx x s } }

/-- The HOST agent's turn is next, and `st` is the next statement of its program (R130). -/
def hostNext (st : HostStmt) (more : List HostStmt) (rest : List Event) (s : State) : Prop :=
  s.env.events = .host :: rest ∧ s.env.program = st :: more

/-- The state after a HOST turn that was answered `r` and left the program `left`; the block became b. -/
def answered (r : BusReply) (left : List HostStmt) (b : Block) (rest : List Event) (s : State) : State :=
  { s with
    blk := b
    env := { s.env with events := rest, program := left, bus := s.env.bus ++ [r] } }

/-- The state after a host write to offset off was acknowledged and the block became b. -/
def wrote (off : Nat) (b : Block) (more : List HostStmt) (rest : List Event) (s : State) : State :=
  answered (.written off) more b rest s

/-- No operation is left that R153's check would complete. -/
def settled (b : Block) : Prop :=
  b.curOp ≠ .none → b.hostFrame ≠ none ∨ b.txCur = .host ∨ b.waiting = true

/-- R153's check, written out. -/
def completed (s : State) : State :=
  if s.blk.curOp ≠ .none ∧ s.blk.hostFrame = none ∧ s.blk.txCur ≠ .host ∧ s.blk.waiting = false then
    { s with
      blk := { s.blk with
        ev := { s.blk.ev with done := true }
        curOp := .none
        curSclass := .none } }
  else s

/-- R153's check after a step. -/
def completedOutcome :
    Host.Outcome State Fault Refusal → Host.Outcome State Fault Refusal
  | .next s => .next (completed s)
  | .fault r => .fault r
  | .refused r => .refused r

/-- The byte of a single-byte wire row. -/
def wireOperand : Instr → Option Byte
  | .sop => some 0x8D
  | .eop => some 0xD8
  | .esc => some 0xAB
  | .data b => some b
  | _ => none

/-- The second byte of an escape-pair row. -/
def pairOperand : Instr → Option Byte
  | .escSop => some 0x05
  | .escEop => some 0x50
  | .escEsc => some 0x23
  | .escOther x => some x
  | _ => none

/-- SEND with its OP code, or SEND_WAIT with its own. -/
def isSendForm (i : Instr) (sclass : BitVec 3) (op : BitVec 4) : Prop :=
  (i = .send sclass ∧ op = 1) ∨ ∃ ecid, i = .sendWait sclass ecid ∧ op = 2

/-- R244's table, row by SCLASS number and column by stream state. -/
def guardCode (sclass : Nat) (st : StreamState) : ResultCode :=
  match sclass, st with
  | 1, .active => .streamActive
  | 2, .unconfigured => .streamUnconfigured
  | 2, .active => .streamActive
  | 3, .unconfigured => .streamInactive
  | 3, .configured => .streamInactive
  | _, _ => .ok

/-- The stream class with number n (R121). -/
def className (n : Nat) : StreamClass :=
  match n with
  | 1 => .configure
  | 2 => .start
  | 3 => .stop
  | _ => .none

/-- The stream state after the EOP of a host frame of this class (R248). -/
def streamNext (c : StreamClass) (st : StreamState) : StreamState :=
  match c with
  | .configure => .configured
  | .start => .active
  | .stop => .configured
  | .none => st

/-- The block that admits a host frame with stream class number n (R142, R143): DONE and OP_FAIL
cleared, the frame built from the TX descriptor as it stands, OP_RESULT = op << 8. -/
def admittedBlock (op : BitVec 4) (n : Nat) (o : CurOp) (b : Block) : Block :=
  { b with
    ev := { b.ev with done := false, opFail := false }
    resCode := .ok
    resOp := op
    hostFrame := some (build b.txHdr b.txAux b.txPlen.toNat b.txParam)
    curSclass := className n
    curOp := o }

/-- The block whose correlator is armed for ecid (R150). -/
def armedBlock (ecid : Byte) (b : Block) : Block :=
  { b with waiting := true, expectCid := ecid, replyValid := false }

/-- Content that is a valid frame, with its body (R211, R213, R214). -/
def validContent (buf body : List Byte) : Prop :=
  buf = body ++ [~~~ sum8 body] ∧ body ≠ [] ∧ hlen (body.headD 0) ≤ body.length

/-- R232, written out with the rule's shifts. -/
def capturedBlock (f : RxFrame) (b : Block) : Block :=
  { b with
    rxHdr := f.flags.setWidth 32 ||| f.did.setWidth 32 <<< 8 ||| f.cid.setWidth 32 <<< 16
      ||| f.seq.setWidth 32 <<< 24
    rxAux := (f.tid.getD 0).setWidth 27 ||| (f.sid.getD 0).setWidth 27 <<< 8
      ||| (f.err.getD 0).setWidth 27 <<< 16 ||| (BitVec.ofBool f.tid.isSome).setWidth 27 <<< 24
      ||| (BitVec.ofBool f.sid.isSome).setWidth 27 <<< 25
      ||| (BitVec.ofBool f.err.isSome).setWidth 27 <<< 26
    rxPlen := BitVec.ofNat 9 f.payload.length
    rxPayload := f.payload
    waiting := false
    replyValid := true }

/-- The big-endian word of four bytes, as a number (R14). -/
def beNat (a b c d : Byte) : Nat :=
  a.toNat * 2 ^ 24 + b.toNat * 2 ^ 16 + c.toNat * 2 ^ 8 + d.toNat

/-- R237, written out. -/
def positionedBlock (f : RxFrame) (b : Block) : Block :=
  let p := f.payload
  let b1 := { b with
    posToken := p.getD 0 0
    posX := BitVec.ofNat 32 (beNat (p.getD 1 0) (p.getD 2 0) (p.getD 3 0) (p.getD 4 0))
    xValid := true
    posCount := b.posCount + 1
    ev := { b.ev with posUpd := true } }
  if p.length = 9 then
    { b1 with
      posY := BitVec.ofNat 32 (beNat (p.getD 5 0) (p.getD 6 0) (p.getD 7 0) (p.getD 8 0))
      yValid := true
      yFresh := true }
  else { b1 with yFresh := false }

/-- R230's `matched`. -/
def awaited (f : RxFrame) (b : Block) : Prop := b.waiting = true ∧ f.cid = b.expectCid

/-- R230's `is_pos`. -/
def notification (f : RxFrame) (b : Block) : Prop :=
  b.notifyApply = true ∧ f.cid.toNat = b.notifySel.toNat / 256 % 256 ∧
    (b.notifySel.toNat < 65536 ∨ f.did.toNat = b.notifySel.toNat % 256) ∧ 5 ≤ f.payload.length

/-- The next step is an RX step that takes the EOP of a valid frame with this body. -/
def completesFrame (s : State) (body : List Byte) : Prop :=
  (∃ rest, s.env.events = .rx :: rest) ∧ s.blk.enable = true ∧ s.blk.rxState = .body ∧
    (∃ chan, s.env.rxChan = EOP :: chan) ∧ validContent s.blk.rxBuf body

/-- The next step is a reset: `rst`, or a CTRL write with bit 31 = 1. -/
def resets (s : State) : Prop :=
  (∃ rest, s.env.events = .rst :: rest) ∨
    ∃ v more rest, hostNext (.wr 0x004 4 v) more rest s ∧ v.getLsbD 31 = true

/-- The statement makes an access at this offset that is not 32 bits wide and aligned (R83). -/
def misaccess (st : HostStmt) (off : Nat) : Prop :=
  (∃ n, (st = .rd off n ∨ ∃ v, st = .wr off n v) ∧ (n ≠ 4 ∨ off % 4 ≠ 0)) ∨
    ((∃ m, st = .poll off m ∨ st = .pollz off m) ∧ off % 4 ≠ 0)

/-- The statement makes an access at this offset. -/
def accessesAt (st : HostStmt) (off : Nat) : Prop :=
  (∃ n, st = .rd off n) ∨ (∃ n v, st = .wr off n v) ∨ ∃ m, st = .poll off m ∨ st = .pollz off m

/-- The number that a read of this offset answers. -/
def reads (p : Params) (b : Block) (off : Nat) : Nat := (readReg p b (regAt p off)).toNat

/-- OP_RESULT.CODE's numbers (R38). -/
def codeNumber : ResultCode → Nat
  | .ok => 0
  | .notReady => 1
  | .busy => 2
  | .badOp => 3
  | .badClass => 4
  | .streamActive => 5
  | .streamInactive => 6
  | .streamUnconfigured => 7

/-- A multiple of 4 inside the window. -/
def alignedOffset (off : Nat) : Prop := off % 4 = 0 ∧ off < 0x1000

/-- The offsets R58 calls reserved. -/
def reservedOffset (p : Params) (off : Nat) : Prop :=
  off ∈ [0x01C, 0x02C, 0x03C, 0x04C, 0x05C] ∨ (0x07C ≤ off ∧ off ≤ 0x3FC) ∨
    (0x400 + 4 * p.rxMax ≤ off ∧ off < 0x800) ∨ (0x800 + 4 * p.txMax ≤ off ∧ off < 0xC00) ∨
    (0xC20 ≤ off ∧ off ≤ 0xFFC)

/-- The offsets of the RO registers (R161): ID, OP_RESULT, RX_HDR, RX_AUX, RX_PLEN, POS_*, CNT_*,
PARAMS, and RX_PAYLOAD[]. -/
def readOnlyOffset (p : Params) (off : Nat) : Prop :=
  off ∈ [0x000, 0x010, 0x040, 0x044, 0x048, 0x050, 0x054, 0x058, 0x060, 0x064, 0x068, 0x06C, 0x070,
    0x074, 0x078] ∨ (0x400 ≤ off ∧ off < 0x400 + 4 * p.rxMax)

end Sys2Proof.Statements

open Sys2Proof.Statements

/-! ### Encodings -/

/-- Decode and encode agree on every well-formed instruction, every operand at every value (30_encoding.md
sections 1 and 3, opcode_table.json). -/
def Obligations.DecodeInvertsEncode : Prop :=
  ∀ i : Instr, i.wf = true → decode (encode i) = .ok i

/-- Every CMD word decodes, by its OP field to its row, with SCLASS = CMD[6:4] and ECID = CMD[15:8]; no
other bit is read (R122). -/
def Obligations.CmdWordReadsOnlyItsFields : Prop :=
  ∀ w : Word, decode (.cmd w) = .ok
    (if w.toNat % 16 = 0 then .nop
     else if w.toNat % 16 = 1 then .send (BitVec.ofNat 3 (w.toNat / 16))
     else if w.toNat % 16 = 2 then
       .sendWait (BitVec.ofNat 3 (w.toNat / 16)) (BitVec.ofNat 8 (w.toNat / 256))
     else if w.toNat % 16 = 3 then .wait (BitVec.ofNat 8 (w.toNat / 256))
     else if w.toNat % 16 = 4 then .clearCounters
     else if w.toNat % 16 = 5 then .reservedOp5
     else if w.toNat % 16 < 8 then .reservedOp6 (BitVec.ofNat 1 w.toNat)
     else .reservedOp8 (BitVec.ofNat 3 w.toNat))

/-- A few words written out from the spec's encodings, of all six formats, decode to the instruction they
stand for (R131, R100, R101, R158, R159, R180). -/
def Obligations.WrittenOutWordsDecode : Prop :=
  decode (.cmd 0x00001012#32) = .ok (.sendWait 1 0x10) ∧
  decode (.cmd 0xFFFF00F3#32) = .ok (.wait 0x00) ∧
  decode (.cmd 0x0000000F#32) = .ok (.reservedOp8 7) ∧
  decode (.wire 0x8D#8) = .ok .sop ∧ decode (.wire 0x05#8) = .ok (.data 0x05) ∧
  decode (.pair 0xAB#8 0x23#8) = .ok .escEsc ∧ decode (.pair 0xAB#8 0xD8#8) = .ok (.escOther 0xD8) ∧
  decode (.line 1#1) = .ok .forceStop ∧
  decode (.ctrl 0x80000007#32) = .ok .softReset ∧
  decode (.ctrl 0x00000003#32) = .ok (.ctrlWrite true true false) ∧
  decode (.status 0x00000800#32) = .ok (.statusW1c 0x08)

/-! ### The step -/

/-- Step runs the decoded instruction: the word of a host write to CMD, CTRL or STATUS (acknowledged on
the bus first), the next received byte (read as the second of a pair in the receive state ESC), or a
rising edge; then R153's completion check. The ports, the list of events, the program's list and the bus
log are the model's own (log entries 4, 6, 10, 22). -/
def Obligations.StepRunsTheDecodedInstruction : Prop :=
  ∀ (s : State) (more : List HostStmt) (rest : List Event),
    (∀ off v i, hostNext (.wr off 4 v) more rest s →
      (off = 0x00C ∧ decode (.cmd v) = .ok i) ∨ (off = 0x004 ∧ decode (.ctrl v) = .ok i) ∨
        (off = 0x008 ∧ decode (.status v) = .ok i) →
      step s = completedOutcome (exec i (wrote off s.blk more rest s))) ∧
    (∀ x chan i, s.env.events = .rx :: rest → s.blk.enable = true → s.env.rxChan = x :: chan →
      decode (if s.blk.rxState = .esc then .pair ESC x else .wire x) = .ok i →
      step s = completedOutcome
        (exec i { s with env := { s.env with events := rest, rxChan := chan } })) ∧
    (s.env.events = .forceStop true :: rest → s.env.fstopPin = false →
      step s = completedOutcome
        (exec .forceStop { s with env := { s.env with events := rest, fstopPin := true } }))

/-- The machine never refuses a step, and it faults only for a host access outside the window, which
the block does not decode (R81). The fault itself is the model's (log entry 2). -/
def Obligations.StepStopsOnlyOutsideTheWindow : Prop :=
  ∀ s : State,
    (∀ r, step s ≠ .refused r) ∧
    (∀ r, step s = .fault r → ∃ off st more rest, 0x1000 ≤ off ∧ r = .outsideWindow off ∧
      hostNext st more rest s ∧ accessesAt st off)

/-- A host access in the window that is not 32 bits wide at a multiple of 4 gets an error response and
changes no state of the block. That the machine goes on, with the program's next statement, and that the
answer carries the address are the model's (log entry 3). -/
def Obligations.BusErrorChangesNoRegister : Prop :=
  ∀ (s : State) (st : HostStmt) (more : List HostStmt) (rest : List Event) (off : Nat), off < 0x1000 →
    misaccess st off → hostNext st more rest s →
    step s = .next (answered (.busError (s.params.base + off)) more s.blk rest s)

/-- A read returns the register at its offset and changes nothing in the block (R88); what each register
reads is RegistersReadTheirFields. A `poll` is such a read: it is over when the masked value is nonzero
(`pollz`: zero), and otherwise stays the program's next statement (R130). `settled` holds in every state
a run reaches (FlightInv is stated to be kept). -/
def Obligations.ReadHasNoSideEffect : Prop :=
  ∀ (s : State) (more : List HostStmt) (rest : List Event) (off : Nat) (m : Word), alignedOffset off →
    settled s.blk →
    let v := readReg s.params s.blk (regAt s.params off)
    (hostNext (.rd off 4) more rest s → step s = .next (answered (.data off v) more s.blk rest s)) ∧
    (hostNext (.poll off m) more rest s → step s = .next (answered (.data off v)
      (if v &&& m ≠ 0 then more else .poll off m :: more) s.blk rest s)) ∧
    (hostNext (.pollz off m) more rest s → step s = .next (answered (.data off v)
      (if v &&& m = 0 then more else .pollz off m :: more) s.blk rest s))

/-- While ENABLE = 0 the TX and RX agents have no step: nothing is sent and the received bytes stay in
the channel (R176, R190, R99); nor has TX one while the transmit stream does not accept a byte (R175).
That such a turn is used up and changes nothing else is the model's (log entry 5). -/
def Obligations.AgentsPauseWhileDisabled : Prop :=
  ∀ (s : State) (rest : List Event),
    (s.blk.enable = false → s.env.events = .tx :: rest ∨ s.env.events = .rx :: rest →
      step s = .next (dropEvent rest s)) ∧
    (s.env.txReady = false → s.env.events = .tx :: rest → step s = .next (dropEvent rest s))

/-! ### Registers -/

/-- What every register of the window reads, for every block: the words of ID (R34), CTRL (R35), CMD
(R37), OP_RESULT (R38), IRQ_EN (R39), NOTIFY_SEL (R40), the TX and halt descriptors (R41 to R48), the
capture registers (R49 to R52), the position registers (R53 to R55), the counters (R56) and PARAMS (R57),
every reserved bit 0; and STATUS (10_state.md R36), bit by bit: the derived bits (R65), the stored bits,
and the reserved bits, which read 0. -/
def Obligations.RegistersReadTheirFields : Prop :=
  ∀ (p : Params) (b : Block), p.legal = true →
    reads p b 0x000 = 0x44524C01 ∧
    reads p b 0x004 = b.enable.toNat + 2 * b.notifyApply.toNat + 4 * b.debugTee.toNat ∧
    reads p b 0x00C = 0 ∧
    reads p b 0x010 = codeNumber b.resCode + 256 * b.resOp.toNat ∧
    reads p b 0x014 = 256 * b.irqEn.done.toNat + 512 * b.irqEn.opFail.toNat
      + 1024 * b.irqEn.posUpd.toNat + 2048 * b.irqEn.abort.toNat + 4096 * b.irqEn.rxErr.toNat
      + 8192 * b.irqEn.fstopDrop.toNat ∧
    reads p b 0x018 = b.notifySel.toNat ∧
    reads p b 0x020 = b.txHdr.toNat ∧ reads p b 0x024 = b.txAux.toNat ∧
    reads p b 0x028 = b.txPlen.toNat ∧
    (∀ i, i < p.txMax → reads p b (0x800 + 4 * i) = (b.txParam.read i).toNat) ∧
    reads p b 0x030 = b.haltHdr.toNat ∧ reads p b 0x034 = b.haltAux.toNat ∧
    reads p b 0x038 = b.haltPlen.toNat + 2 ^ 31 * b.haltArmed.toNat ∧
    (∀ i, i < 8 → reads p b (0xC00 + 4 * i) = (b.haltParam.read i).toNat) ∧
    reads p b 0x040 = b.rxHdr.toNat ∧ reads p b 0x044 = b.rxAux.toNat ∧
    reads p b 0x048 = b.rxPlen.toNat ∧
    (∀ i, i < p.rxMax → reads p b (0x400 + 4 * i) =
      if i < b.rxPlen.toNat then (b.rxPayload.getD i 0).toNat else 0) ∧
    reads p b 0x050 = b.posX.toNat ∧ reads p b 0x054 = b.posY.toNat ∧
    reads p b 0x058 = b.posToken.toNat + 256 * b.xValid.toNat + 512 * b.yValid.toNat
      + 1024 * b.yFresh.toNat + 65536 * b.posCount.toNat ∧
    reads p b 0x060 = b.cnt.ok.toNat ∧ reads p b 0x064 = b.cnt.cksum.toNat ∧
    reads p b 0x068 = b.cnt.short.toNat ∧ reads p b 0x06C = b.cnt.ovf.toNat ∧
    reads p b 0x070 = b.cnt.drop.toNat ∧ reads p b 0x074 = b.cnt.skip.toNat ∧
    reads p b 0x078 = p.rxMax + 65536 * p.txMax ∧
    (let w := readReg p b (regAt p 0x008)
     (w.getLsbD 0 = true ↔ b.hostFrame ≠ none ∨ b.txCur = .host) ∧
     (w.getLsbD 2 = true ↔ b.haltFrame ≠ none ∨ b.txCur = .halt) ∧
     w.getLsbD 1 = b.waiting ∧
     w.toNat / 16 % 4 = (match b.stream with | .unconfigured => 0 | .configured => 1 | .active => 2) ∧
     w.getLsbD 3 = b.replyValid ∧ w.getLsbD 8 = b.ev.done ∧ w.getLsbD 9 = b.ev.opFail ∧
     w.getLsbD 10 = b.ev.posUpd ∧ w.getLsbD 11 = b.ev.abort ∧ w.getLsbD 12 = b.ev.rxErr ∧
     w.getLsbD 13 = b.ev.fstopDrop ∧ ∀ k, k = 6 ∨ k = 7 ∨ 14 ≤ k → w.getLsbD k = false)

/-- `irq` is the OR over bits 8 to 13 of STATUS[i] AND IRQ_EN[i], on the words the host reads, and it is 0
after reset (R267). -/
def Obligations.IrqIsEnabledPending : Prop :=
  (∀ (p : Params) (b : Block), b.irq = true ↔
    ∃ i, 8 ≤ i ∧ i ≤ 13 ∧ (readReg p b .status).getLsbD i = true ∧
      (readReg p b .irqEn).getLsbD i = true) ∧
  Block.reset.irq = false

/-- Reserved offsets read 0 and ignore writes (R58). -/
def Obligations.ReservedOffsetsAreInert : Prop :=
  ∀ (s : State) (more : List HostStmt) (rest : List Event) (off : Nat) (v : Word),
    s.params.legal = true → alignedOffset off →
    reservedOffset s.params off → settled s.blk →
    (hostNext (.rd off 4) more rest s →
      step s = .next (answered (.data off 0) more s.blk rest s)) ∧
    (hostNext (.wr off 4 v) more rest s → step s = .next (wrote off s.blk more rest s))

/-- A write to a read-only register, or to a reserved offset, is acknowledged and has no effect on the
block (R161). -/
def Obligations.ReadOnlyRegistersIgnoreWrites : Prop :=
  ∀ (s : State) (more : List HostStmt) (rest : List Event) (off : Nat) (v : Word),
    s.params.legal = true → alignedOffset off →
    readOnlyOffset s.params off ∨ reservedOffset s.params off → settled s.blk →
    hostNext (.wr off 4 v) more rest s → step s = .next (wrote off s.blk more rest s)

/-- What a write to each register without a side effect stores, and that it changes nothing else: no
other register, no frame already built (R160). -/
def Obligations.RegisterWritesStoreTheirFields : Prop :=
  ∀ (s : State) (more : List HostStmt) (rest : List Event) (off : Nat) (v : Word),
    s.params.legal = true → s.MemInv → settled s.blk → hostNext (.wr off 4 v) more rest s →
    (off = 0x014 → ∃ e, step s = .next (wrote off { s.blk with irqEn := e } more rest s) ∧
      readReg s.params { s.blk with irqEn := e } .irqEn = v &&& 0x3F00#32) ∧
    (off = 0x018 → step s = .next
      (wrote off { s.blk with notifySel := BitVec.ofNat 17 v.toNat } more rest s)) ∧
    (off = 0x020 → step s = .next (wrote off { s.blk with txHdr := v } more rest s)) ∧
    (off = 0x024 → step s = .next
      (wrote off { s.blk with txAux := BitVec.ofNat 24 v.toNat } more rest s)) ∧
    (off = 0x028 → step s = .next
      (wrote off { s.blk with txPlen := BitVec.ofNat 9 (min (v.toNat % 512) s.params.txMax) }
        more rest s)) ∧
    (off = 0x030 → step s = .next (wrote off { s.blk with haltHdr := v } more rest s)) ∧
    (off = 0x034 → step s = .next
      (wrote off { s.blk with haltAux := BitVec.ofNat 24 v.toNat } more rest s)) ∧
    (off = 0x038 → step s = .next
      (wrote off
        { s.blk with
          haltPlen := BitVec.ofNat 4 (min (v.toNat % 16) 8)
          haltArmed := v.getLsbD 31 } more rest s)) ∧
    (∀ i, i < s.params.txMax → off = 0x800 + 4 * i →
      ∃ m, step s = .next (wrote off { s.blk with txParam := m } more rest s) ∧
        m.read i = BitVec.ofNat 8 v.toNat ∧ ∀ j, j ≠ i → m.read j = s.blk.txParam.read j) ∧
    (∀ i, i < 8 → off = 0xC00 + 4 * i →
      ∃ m, step s = .next (wrote off { s.blk with haltParam := m } more rest s) ∧
        m.read i = BitVec.ofNat 8 v.toNat ∧ ∀ j, j ≠ i → m.read j = s.blk.haltParam.read j)

/-- After a reset every register reads its reset value, every internal variable holds its own, and irq
is 0 (R70). -/
def Obligations.ResetLeavesTheResetValues : Prop :=
  (∀ (p : Params) (off : Nat), p.legal = true → alignedOffset off →
    readReg p Block.reset (regAt p off) =
      if off = 0x000 then 0x44524C01#32
      else if off = 0x078 then BitVec.ofNat 32 (p.rxMax + p.txMax * 65536) else 0) ∧
  Block.reset.rxState = .hunt ∧ Block.reset.rxBuf = [] ∧ Block.reset.hostFrame = none ∧
  Block.reset.haltFrame = none ∧ Block.reset.txCur = .idle ∧ Block.reset.txWire = [] ∧
  Block.reset.txPos = 0 ∧ Block.reset.curOp = .none ∧ Block.reset.curSclass = .none ∧
  Block.reset.waiting = false ∧ Block.reset.expectCid = 0 ∧ Block.reset.stream = .unconfigured ∧
  Block.reset.irq = false ∧ State.reset.blk = Block.reset

/-! ### Host operations -/

/-- NOP does nothing, whatever its other bits (R141). -/
def Obligations.NopDoesNothing : Prop :=
  ∀ (w : Word) (s : State), w.toNat % 16 = 0 → decode (.cmd w) = .ok .nop ∧ exec .nop s = .next s

/-- A reserved OP is refused BAD_OP with its OP recorded, before any other check (R157). -/
def Obligations.ReservedOpIsRefused : Prop :=
  ∀ (w : Word) (s : State), 5 ≤ w.toNat % 16 →
    ∃ i, decode (.cmd w) = .ok i ∧
      exec i s = .next (refusedState .badOp (BitVec.ofNat 4 w.toNat) s)

/-- The admission checks in their order; a failed check changes nothing but OP_RESULT and the two
STATUS bits the CMD write touches (R145). -/
def Obligations.FirstFailedCheckDecides : Prop :=
  ∀ (i : Instr) (sclass : BitVec 3) (op : BitVec 4) (ecid : Byte) (s : State),
    (isSendForm i sclass op →
      (4 ≤ sclass.toNat → exec i s = .next (refusedState .badClass op s)) ∧
      (sclass.toNat < 4 → s.blk.enable = false → exec i s = .next (refusedState .notReady op s)) ∧
      (sclass.toNat < 4 → s.blk.enable = true → s.blk.curOp ≠ .none →
        exec i s = .next (refusedState .busy op s)) ∧
      (sclass.toNat < 4 → s.blk.enable = true → s.blk.curOp = .none →
        guardCode sclass.toNat s.blk.stream ≠ .ok →
        exec i s = .next (refusedState (guardCode sclass.toNat s.blk.stream) op s))) ∧
    (s.blk.enable = false → exec (.wait ecid) s = .next (refusedState .notReady 3 s)) ∧
    (s.blk.enable = true → s.blk.curOp ≠ .none →
      exec (.wait ecid) s = .next (refusedState .busy 3 s)) ∧
    (s.blk.curOp ≠ .none → exec .clearCounters s = .next (refusedState .busy 4 s))

/-- The stream guard: all twelve cells of the table, and a refusal leaves the stream state and queues no
frame (R244). -/
def Obligations.StreamGuardTable : Prop :=
  ∀ (i : Instr) (sclass : BitVec 3) (op : BitVec 4) (s : State), isSendForm i sclass op →
    sclass.toNat < 4 → s.blk.enable = true → s.blk.curOp = .none →
    ∃ t, exec i s = .next t ∧ t.blk.stream = s.blk.stream ∧
      t.blk.resCode = guardCode sclass.toNat s.blk.stream ∧
      (t.blk.resCode ≠ .ok → t.blk.hostFrame = s.blk.hostFrame ∧ t.blk.curOp = .none)

/-- SEND, admitted: the frame is snapshotted from the TX descriptor and queued; every other piece of
state is unchanged (40_host_ops.md R142). -/
def Obligations.SendAdmitted : Prop :=
  ∀ (sclass : BitVec 3) (s : State), sclass.toNat < 4 → s.blk.enable = true → s.blk.curOp = .none →
    guardCode sclass.toNat s.blk.stream = .ok →
    exec (.send sclass) s = .next { s with blk := admittedBlock 1 sclass.toNat .send s.blk }

/-- SEND_WAIT, admitted: as SEND, with the correlator armed before any byte leaves (40_host_ops.md
R143, R150). -/
def Obligations.SendWaitAdmitted : Prop :=
  ∀ (sclass : BitVec 3) (ecid : Byte) (s : State), sclass.toNat < 4 → s.blk.enable = true →
    s.blk.curOp = .none → guardCode sclass.toNat s.blk.stream = .ok →
    exec (.sendWait sclass ecid) s =
      .next { s with blk := armedBlock ecid (admittedBlock 2 sclass.toNat .sendWait s.blk) }

/-- WAIT, admitted: the correlator is armed and nothing is sent (40_host_ops.md R155). -/
def Obligations.WaitAdmitted : Prop :=
  ∀ (ecid : Byte) (s : State), s.blk.enable = true → s.blk.curOp = .none →
    exec (.wait ecid) s = .next
      { s with
        blk := { armedBlock ecid s.blk with
          ev := { s.blk.ev with done := false, opFail := false }
          resCode := .ok
          resOp := 3
          curOp := .wait } }

/-- CLEAR_COUNTERS: refused BUSY while an operation is in flight; otherwise the six counters become 0
and DONE is set, ENABLE or not (R156). -/
def Obligations.ClearCountersOutcome : Prop :=
  ∀ (w : Word) (s : State), w.toNat % 16 = 4 →
    decode (.cmd w) = .ok .clearCounters ∧
    exec .clearCounters s = .next
      (if s.blk.curOp ≠ .none then refusedState .busy 4 s
       else
        { s with
          blk := { s.blk with
            cnt := { ok := 0, cksum := 0, short := 0, ovf := 0, drop := 0, skip := 0 }
            ev := { s.blk.ev with done := true, opFail := false }
            resCode := .ok
            resOp := 4 } })

/-- A CTRL write: bit 31 resets the block and stores nothing else of the word; otherwise the three bits
are stored and nothing else changes (R158). -/
def Obligations.CtrlWriteOutcome : Prop :=
  ∀ (v : Word) (s : State),
    (v.getLsbD 31 = true → decode (.ctrl v) = .ok .softReset ∧
      exec .softReset s = .next { s with blk := Block.reset }) ∧
    (v.getLsbD 31 = false → ∃ en notifyApply debugTee,
      decode (.ctrl v) = .ok (.ctrlWrite en notifyApply debugTee) ∧
      exec (.ctrlWrite en notifyApply debugTee) s = .next
        { s with
          blk := { s.blk with
            enable := v.getLsbD 0
            notifyApply := v.getLsbD 1
            debugTee := v.getLsbD 2 } })

/-- A STATUS write clears each of bits 13:8 written as 1 and changes no other bit and no other state
(R159). -/
def Obligations.StatusWriteClearsWrittenOnes : Prop :=
  ∀ (v : Word) (s : State), ∃ mask ev',
    decode (.status v) = .ok (.statusW1c mask) ∧
    exec (.statusW1c mask) s = .next { s with blk := { s.blk with ev := ev' } } ∧
    ∀ k, (readReg s.params { s.blk with ev := ev' } .status).getLsbD k =
      ((readReg s.params s.blk .status).getLsbD k && !(decide (8 ≤ k ∧ k ≤ 13) && v.getLsbD k))

/-- A soft reset has exactly the effect of the `rst` input: the block takes its reset state and nothing
outside it changes (R291, R293). -/
def Obligations.SoftAndHardResetAgree : Prop :=
  ∀ (s : State) (more : List HostStmt) (rest : List Event) (v : Word),
    (s.env.events = .rst :: rest →
      step s = .next { dropEvent rest s with blk := Block.reset }) ∧
    (hostNext (.wr 0x004 4 v) more rest s → v.getLsbD 31 = true →
      step s = .next (wrote 0x004 Block.reset more rest s))

/-! ### Codec -/

/-- The header is FLAGS, TID iff F[4], SID iff F[5], DID, CID, SEQ, ERR iff F[0], and its length is
4 + F[4] + F[5] + F[0] (R111). -/
def Obligations.HeaderLayout : Prop :=
  ∀ (f d c q t r e : Byte) (h : Word) (a : BitVec 24),
    h.toNat = f.toNat + d.toNat * 2 ^ 8 + c.toNat * 2 ^ 16 + q.toNat * 2 ^ 24 →
    a.toNat = t.toNat + r.toNat * 2 ^ 8 + e.toNat * 2 ^ 16 →
    hdr h a =
      [f] ++ (if f.getLsbD 4 then [t] else []) ++ (if f.getLsbD 5 then [r] else []) ++ [d, c, q]
        ++ (if f.getLsbD 0 then [e] else []) ∧
    (hdr h a).length = hlen f ∧
    hlen f = 4 + (f.getLsbD 4).toNat + (f.getLsbD 5).toNat + (f.getLsbD 0).toNat ∧
    4 ≤ hlen f ∧ hlen f ≤ 7

/-- The check `c = ~sum8(body)` is the same as the whole content summing to 0xFF (R211), and every frame
the serialiser builds passes it (R184). -/
def Obligations.BuiltFramesPassTheChecksum : Prop :=
  (∀ (body : List Byte) (c : Byte), c = cks body ↔ sum8 (body ++ [c]) = 0xFF#8) ∧
  ∀ (h : Word) (a : BitVec 24) (n : Nat) (m : Memory),
    ∃ body, build h a n m = body ++ [cks body] ∧ sum8 (build h a n m) = 0xFF#8

/-- Flipping one bit of one content byte is always detected (41_tx_encoder.md R185). -/
def Obligations.SingleBitFlipIsDetected : Prop :=
  ∀ (pre post : List Byte) (x : Byte) (k : Nat), k < 8 →
    sum8 (pre ++ [x] ++ post) = 0xFF#8 → sum8 (pre ++ [x ^^^ (1#8 <<< k)] ++ post) ≠ 0xFF#8

/-- `stuff`: SOP first, EOP last, between them no SOP or EOP and every ESC followed by a canonical
substitute, the length, and injectivity (R173). -/
def Obligations.StuffProperties : Prop :=
  (∀ content : List Byte, ∃ mid, stuff content = [0x8D] ++ mid ++ [0xD8] ∧
    (∀ b ∈ mid, b ≠ 0x8D#8 ∧ b ≠ 0xD8#8) ∧
    (∀ k, mid[k]? = some 0xAB#8 →
      mid[k + 1]? = some 0x05#8 ∨ mid[k + 1]? = some 0x50#8 ∨ mid[k + 1]? = some 0x23#8) ∧
    (stuff content).length = content.length + 2
      + content.countP (fun b => b == 0x8D || b == 0xD8 || b == 0xAB)) ∧
  (∀ c d : List Byte, stuff c = stuff d → c = d)

/-- Parse inverts build: a built content reaches the correlator with the descriptor's fields, an absent
field absent, and the parameters as payload (R219). -/
def Obligations.ParseInvertsBuild : Prop :=
  ∀ (h : Word) (a : BitVec 24) (n : Nat) (m : Memory) (b : Block),
    processFrame (build h a n m) b =
      correlate
        { flags := hdrFlags h
          tid := if (hdrFlags h).getLsbD 4 then some (auxTid a) else none
          sid := if (hdrFlags h).getLsbD 5 then some (auxSid a) else none
          did := hdrDid h
          cid := hdrCid h
          seq := hdrSeq h
          err := if (hdrFlags h).getLsbD 0 then some (auxErr a) else none
          payload := (List.range n).map m.read }
        { b with cnt := { b.cnt with ok := b.cnt.ok + 1 } }

/-! ### Receive -/

/-- HUNT: SOP starts a frame, every other byte is skipped and counted (R191). -/
def Obligations.HuntSkipsUntilSop : Prop :=
  ∀ (i : Instr) (x : Byte) (s : State), wireOperand i = some x → s.blk.enable = true →
    s.blk.rxState = .hunt →
    exec i s = .next (tookByte x
      (if x = 0x8D#8 then { s.blk with rxBuf := [], rxState := .body }
       else { s.blk with cnt := { s.blk.cnt with skip := s.blk.cnt.skip + 1 } }) s)

/-- BODY: ESC is remembered, and every byte but ESC and EOP, SOP among them, is appended, or overflows
the buffer and discards the frame (R194, R195). -/
def Obligations.BodyAccumulates : Prop :=
  ∀ (i : Instr) (x : Byte) (s : State), wireOperand i = some x → x ≠ 0xD8#8 → s.blk.enable = true →
    s.blk.rxState = .body →
    exec i s = .next (tookByte x
      (if x = 0xAB#8 then { s.blk with rxState := .esc }
       else if s.blk.rxBuf.length = s.params.rxMax then
         { s.blk with
           cnt := { s.blk.cnt with ovf := s.blk.cnt.ovf + 1 }
           ev := { s.blk.ev with rxErr := true }
           rxBuf := []
           rxState := .hunt }
       else { s.blk with rxBuf := s.blk.rxBuf ++ [x] }) s)

/-- ESC: whatever byte follows the escape marker, SOP, EOP and ESC among them, is content after XOR with
0x88 and ends no frame; the buffer may overflow (42_rx_decoder.md R193). That a pair row in this state is
the RX step on its second byte alone is the model's (log entry 6). -/
def Obligations.EscapedByteIsContent : Prop :=
  ∀ (i : Instr) (x : Byte) (s : State), (pairOperand i = some x ∨ wireOperand i = some x) →
    s.blk.enable = true → s.blk.rxState = .esc →
    exec i s = .next (tookByte x
      (if s.blk.rxBuf.length = s.params.rxMax then
         { s.blk with
           cnt := { s.blk.cnt with ovf := s.blk.cnt.ovf + 1 }
           ev := { s.blk.ev with rxErr := true }
           rxBuf := []
           rxState := .hunt }
       else { s.blk with rxBuf := s.blk.rxBuf ++ [x ^^^ 0x88#8], rxState := .body }) s)

/-- A frame whose checksum fails is counted, sets RX_ERR, and changes nothing else but the receive
state: a pending wait stays pending (R212). -/
def Obligations.ChecksumFailureDiscards : Prop :=
  ∀ (s : State) (body : List Byte) (c : Byte), s.blk.enable = true → s.blk.rxState = .body →
    s.blk.rxBuf = body ++ [c] → c ≠ ~~~ sum8 body →
    exec .eop s = .next (tookByte 0xD8
      { s.blk with
        cnt := { s.blk.cnt with cksum := s.blk.cnt.cksum + 1 }
        ev := { s.blk.ev with rxErr := true }
        rxBuf := []
        rxState := .hunt } s)

/-- An empty frame, and a frame that passes the checksum but is shorter than its header, is counted as
short, sets RX_ERR, and changes nothing else but the receive state (R213). -/
def Obligations.ShortFrameDiscards : Prop :=
  ∀ (s : State), s.blk.enable = true → s.blk.rxState = .body →
    (s.blk.rxBuf = [] ∨ ∃ body, s.blk.rxBuf = body ++ [~~~ sum8 body] ∧
      (body = [] ∨ body.length < hlen (body.headD 0))) →
    exec .eop s = .next (tookByte 0xD8
      { s.blk with
        cnt := { s.blk.cnt with short := s.blk.cnt.short + 1 }
        ev := { s.blk.ev with rxErr := true }
        rxBuf := []
        rxState := .hunt } s)

/-- A valid frame is counted and correlated: captured when awaited, applied when a position
notification, both when both, dropped and counted when neither; nothing else changes (R230, R232,
R237). -/
def Obligations.ValidFrameIsCorrelated : Prop :=
  ∀ (s : State) (body : List Byte), s.blk.enable = true → s.blk.rxState = .body →
    validContent s.blk.rxBuf body →
    ∃ t, exec .eop s = .next (tookByte 0xD8 { t with rxBuf := [], rxState := .hunt } s) ∧
      (let f := parse body
       let b := { s.blk with cnt := { s.blk.cnt with ok := s.blk.cnt.ok + 1 } }
       (awaited f s.blk → notification f s.blk → t = positionedBlock f (capturedBlock f b)) ∧
       (awaited f s.blk → ¬ notification f s.blk → t = capturedBlock f b) ∧
       (¬ awaited f s.blk → notification f s.blk → t = positionedBlock f b) ∧
       (¬ awaited f s.blk → ¬ notification f s.blk →
         t = { b with cnt := { b.cnt with drop := b.cnt.drop + 1 } }))

/-- Round trip: from HUNT, the wire bytes of any content of at most P_RXMAX bytes make the block process
exactly that content once, and end in HUNT with an empty buffer (R200). -/
def Obligations.StuffedContentIsProcessedOnce : Prop :=
  ∀ (s : State) (content more : List Byte) (rest : List Event), s.blk.enable = true →
    s.blk.rxState = .hunt → content.length ≤ s.params.rxMax → settled s.blk →
    s.env.rxChan = stuff content ++ more →
    s.env.events = List.replicate (stuff content).length .rx ++ rest →
    ∃ t : State, Sys2Proof.core.run (stuff content).length s = .next t ∧
      t.blk = completionCheck { processFrame content s.blk with rxBuf := [], rxState := .hunt } ∧
      t.params = s.params ∧ t.env.rxChan = more ∧ t.env.events = rest ∧ t.env.txOut = s.env.txOut

/-- Resynchronisation: from HUNT, bytes without a start delimiter are all skipped and counted, and
nothing else changes but the debug tee (42_rx_decoder.md R201). -/
def Obligations.GarbageIsSkippedAndCounted : Prop :=
  ∀ (s : State) (garbage more : List Byte) (rest : List Event), s.blk.enable = true →
    s.blk.rxState = .hunt → 0x8D#8 ∉ garbage → settled s.blk → s.env.rxChan = garbage ++ more →
    s.env.events = List.replicate garbage.length .rx ++ rest →
    Sys2Proof.core.run garbage.length s = .next
      { s with
        blk := { s.blk with
          cnt := { s.blk.cnt with skip := s.blk.cnt.skip + BitVec.ofNat 32 garbage.length } }
        env := { s.env with
          events := rest
          rxChan := more
          tee := if s.blk.debugTee then s.env.tee ++ garbage.map (fun x => (Dir.rx, x))
            else s.env.tee } }

/-! ### Transmit and force-stop -/

/-- Frame start: a queued halt frame before a queued host frame, its SOP in the same step; with neither
there is no step (41_tx_encoder.md R174). That the turn is then used up and changes nothing else is the
model's (log entry 5). -/
def Obligations.FrameStartTakesHaltFirst : Prop :=
  ∀ (s : State) (rest : List Event), s.env.events = .tx :: rest → s.env.txReady = true →
    s.blk.enable = true → s.blk.txCur = .idle → settled s.blk →
    (∀ c, s.blk.haltFrame = some c → step s = .next (sentByte 0x8D
      { s.blk with haltFrame := none, txCur := .halt, txWire := stuff c, txPos := 1 } rest s)) ∧
    (∀ c, s.blk.haltFrame = none → s.blk.hostFrame = some c → step s = .next (sentByte 0x8D
      { s.blk with hostFrame := none, txCur := .host, txWire := stuff c, txPos := 1 } rest s)) ∧
    (s.blk.haltFrame = none → s.blk.hostFrame = none → step s = .next (dropEvent rest s))

/-- A frame in progress emits its next byte, whatever is queued; only the position moves before its last
byte (41_tx_encoder.md R175). -/
def Obligations.FrameInProgressEmitsNextByte : Prop :=
  ∀ (s : State) (rest : List Event) (x : Byte), s.env.events = .tx :: rest → s.env.txReady = true →
    s.blk.enable = true → s.blk.txCur ≠ .idle → s.blk.txWire[s.blk.txPos]? = some x →
    s.blk.txPos + 1 < s.blk.txWire.length → settled s.blk →
    step s = .next (sentByte x { s.blk with txPos := s.blk.txPos + 1 } rest s)

/-- The EOP of a host frame: the stream transition of its class, TX_BUSY 0, and DONE in the same step
unless a reply is still awaited (R178, R248). Without a wait in flight the equation says everything the
step changes. The EOP of a halt frame changes nothing but the transmit state (R179). -/
def Obligations.FrameEnd : Prop :=
  ∀ (s : State) (rest : List Event) (x : Byte), s.env.events = .tx :: rest → s.env.txReady = true →
    s.blk.enable = true → s.blk.txWire[s.blk.txPos]? = some x →
    s.blk.txPos + 1 = s.blk.txWire.length →
    (s.blk.txCur = .host → s.blk.hostFrame = none → s.blk.curOp ≠ .none → s.blk.waiting = false →
      step s = .next (sentByte x
        { s.blk with
          stream := streamNext s.blk.curSclass s.blk.stream
          txCur := .idle
          txWire := []
          txPos := 0
          ev := { s.blk.ev with done := true }
          curOp := .none
          curSclass := .none } rest s)) ∧
    (s.blk.txCur = .host → s.blk.hostFrame = none → s.blk.curOp ≠ .none → s.blk.waiting = true →
      ∃ cls, step s = .next (sentByte x
        { s.blk with
          stream := streamNext s.blk.curSclass s.blk.stream
          txCur := .idle
          txWire := []
          txPos := 0
          curSclass := cls } rest s)) ∧
    (s.blk.txCur = .halt → settled s.blk → step s = .next (sentByte x
      { s.blk with txCur := .idle, txWire := [], txPos := 0 } rest s))

/-- A force-stop: ABORT always; armed and enabled it queues one halt frame built from the halt
descriptor, keeping one already queued; otherwise FSTOP_DROP. Nothing else changes (R180, R182). -/
def Obligations.ForceStopOutcome : Prop :=
  ∀ s : State,
    exec .forceStop s = .next
      { s with
        blk :=
          if s.blk.enable = true ∧ s.blk.haltArmed = true then
            { s.blk with
              ev := { s.blk.ev with abort := true }
              haltFrame := some (s.blk.haltFrame.getD
                (build s.blk.haltHdr s.blk.haltAux s.blk.haltPlen.toNat s.blk.haltParam)) }
          else { s.blk with ev := { s.blk.ev with abort := true, fstopDrop := true } } }

/-- Only a rising edge of `force_stop` is a step: a level held high, or falling, changes no register
(60_exceptions.md R270). The pin's level in State is the model's (log entry 16). -/
def Obligations.OnlyRisingEdgeForcesStop : Prop :=
  ∀ (s : State) (rest : List Event) (level : Bool), s.env.events = .forceStop level :: rest →
    (level = true ∧ s.env.fstopPin = false →
      ∃ t, step s = .next t ∧ t.blk.ev.abort = true ∧ t.env.fstopPin = true) ∧
    (¬ (level = true ∧ s.env.fstopPin = false) →
      step s = .next { s with env := { s.env with events := rest, fstopPin := level } })

/-- An admitted SEND completes: a queued host frame takes exactly `len(stuff(C))` TX steps, all its wire
bytes go out in order, its stream transition is made and DONE is set (70_reset_and_hazards.md R317,
R319). -/
def Obligations.SendCompletesInItsWireLength : Prop :=
  ∀ (s : State) (content : List Byte) (rest : List Event), s.env.txReady = true →
    s.blk.enable = true → s.blk.txCur = .idle → s.blk.haltFrame = none → s.blk.hostFrame = some content →
    s.blk.curOp = .send → s.blk.waiting = false →
    s.env.events = List.replicate (stuff content).length .tx ++ rest →
    ∃ t : State, Sys2Proof.core.run (stuff content).length s = .next t ∧
      t.params = s.params ∧
      t.env = { s.env with
        events := rest, txOut := s.env.txOut ++ stuff content, tee := t.env.tee } ∧
      t.blk = { s.blk with
        hostFrame := none
        txWire := []
        txPos := 0
        curOp := .none
        curSclass := .none
        ev := { s.blk.ev with done := true }
        stream := streamNext s.blk.curSclass s.blk.stream }

/-- Force-stop latency: with any frame in progress, a host frame or an earlier halt frame (R183), and a
halt frame queued, exactly the rest of that frame goes out and the very next byte is the queued halt
frame's SOP, whatever host frame is queued (70_reset_and_hazards.md R313). -/
def Obligations.HaltFollowsTheFrameInProgress : Prop :=
  ∀ (s : State) (halt : List Byte) (rest : List Event), s.env.txReady = true →
    s.blk.enable = true → s.blk.txCur ≠ .idle → s.blk.txPos < s.blk.txWire.length →
    s.blk.haltFrame = some halt →
    s.env.events =
      List.replicate (s.blk.txWire.length - s.blk.txPos + 1) .tx ++ rest →
    ∃ t : State, Sys2Proof.core.run (s.blk.txWire.length - s.blk.txPos + 1) s = .next t ∧
      t.env.txOut = s.env.txOut ++ s.blk.txWire.drop s.blk.txPos ++ [0x8D] ∧
      t.blk.txCur = .halt ∧ t.blk.txWire = stuff halt ∧ t.blk.txPos = 1 ∧
      t.blk.haltFrame = none ∧ t.blk.hostFrame = s.blk.hostFrame ∧ t.env.events = rest

/-- Idempotent stop: from ACTIVE, a stop sends its frame and leaves CONFIGURED with OK; a second stop is
refused STREAM_INACTIVE, sets OP_FAIL, sends nothing and leaves CONFIGURED (R250). -/
def Obligations.SecondStopIsRefused : Prop :=
  ∀ (s : State) (more : List HostStmt) (rest : List Event), s.env.txReady = true →
    s.blk.enable = true → s.blk.stream = .active →
    s.blk.curOp = .none → s.blk.waiting = false → s.blk.txCur = .idle → s.blk.hostFrame = none →
    s.blk.haltFrame = none →
    (let wire := stuff (build s.blk.txHdr s.blk.txAux s.blk.txPlen.toNat s.blk.txParam)
     s.env.program = .wr 0x00C 4 0x31 :: .wr 0x00C 4 0x31 :: more →
     s.env.events = .host :: (List.replicate wire.length .tx ++ (.host :: rest)) →
     ∃ t u : State, Sys2Proof.core.run (wire.length + 1) s = .next t ∧ t.blk.stream = .configured ∧
       t.blk.resCode = .ok ∧ t.blk.ev.done = true ∧ t.env.txOut = s.env.txOut ++ wire ∧
       step t = .next u ∧ u.blk.stream = .configured ∧ u.blk.resCode = .streamInactive ∧
       u.blk.ev.opFail = true ∧ u.blk.ev.done = false ∧ u.blk.hostFrame = none ∧
       u.env.txOut = t.env.txOut)

/-! ### Rules about the whole machine -/

/-- A wait ends only by capturing a matching valid frame or by a reset (R154). -/
def Obligations.OnlyReplyOrResetEndsAWait : Prop :=
  ∀ s t : State, step s = .next t → s.blk.waiting = true → t.blk.waiting = false →
    resets s ∨ ∃ body, completesFrame s body ∧ (parse body).cid = s.blk.expectCid

/-- The capture registers change only when a valid frame is captured, or at reset (44_correlator.md
R233). -/
def Obligations.CaptureRegistersChangeOnlyAtCapture : Prop :=
  ∀ s t : State, step s = .next t →
    (t.blk.rxHdr ≠ s.blk.rxHdr ∨ t.blk.rxAux ≠ s.blk.rxAux ∨ t.blk.rxPlen ≠ s.blk.rxPlen ∨
      t.blk.rxPayload ≠ s.blk.rxPayload) →
    resets s ∨ ∃ body, completesFrame s body ∧ awaited (parse body) s.blk

/-- The position registers change only when a valid position notification is applied, or at reset
(R68). -/
def Obligations.PositionChangesOnlyByNotification : Prop :=
  ∀ s t : State, step s = .next t →
    (t.blk.posX ≠ s.blk.posX ∨ t.blk.posY ≠ s.blk.posY ∨ t.blk.posToken ≠ s.blk.posToken ∨
      t.blk.xValid ≠ s.blk.xValid ∨ t.blk.yValid ≠ s.blk.yValid ∨ t.blk.yFresh ≠ s.blk.yFresh ∨
      t.blk.posCount ≠ s.blk.posCount) →
    resets s ∨ ∃ body, completesFrame s body ∧ notification (parse body) s.blk

/-- The stream state changes only when a host frame with a stream class completes transmission, to what
that class says, or at reset (R243). -/
def Obligations.StreamChangesOnlyAtFrameEnd : Prop :=
  ∀ s t : State, step s = .next t → t.blk.stream ≠ s.blk.stream →
    (resets s ∧ t.blk.stream = .unconfigured) ∨
    ((∃ rest, s.env.events = .tx :: rest) ∧ s.blk.enable = true ∧ s.blk.txCur = .host ∧
      s.blk.txPos + 1 = s.blk.txWire.length ∧ s.blk.curSclass ≠ .none ∧
      t.blk.stream = streamNext s.blk.curSclass s.blk.stream)

/-- The debug tee mirrors exactly the bytes taken and the bytes emitted, while DEBUG_TEE = 1, and each
step emits at most one byte, only on the TX agent's turn (R177, R198). -/
def Obligations.TeeMirrorsEveryWireByte : Prop :=
  ∀ (s t : State) (e : Event) (rest : List Event), s.env.events = e :: rest → step s = .next t →
    ∃ emitted : List Byte, t.env.txOut = s.env.txOut ++ emitted ∧ emitted.length ≤ 1 ∧
      (e ≠ .tx → emitted = []) ∧
      t.env.tee = s.env.tee ++
        (if s.blk.debugTee = false then []
         else match e with
          | .tx => emitted.map (fun x => (Dir.tx, x))
          | .rx => if s.blk.enable then (s.env.rxChan.take 1).map (fun x => (Dir.rx, x)) else []
          | _ => [])

/-- An operation in flight ends only with DONE, once its frame is sent and its reply captured, or at
reset (40_host_ops.md R152, R153). -/
def Obligations.OperationEndsWithDone : Prop :=
  ∀ s t : State, step s = .next t → s.blk.curOp ≠ .none → t.blk.curOp = .none →
    resets s ∨ (t.blk.ev.done = true ∧ t.blk.hostFrame = none ∧ t.blk.txCur ≠ .host ∧
      t.blk.waiting = false)

/-! ### Invariants -/

/-- Reset meets every invariant. -/
def Obligations.ResetMeetsTheInvariants : Prop :=
  State.reset.OpInv ∧ State.reset.RegInv ∧ State.reset.MemInv ∧ State.reset.FlightInv ∧
    State.reset.WireInv

/-- Every step keeps the invariants of R66. That `cur_sclass` is NONE again from the host frame's EOP on
(the clause sclass_op) is the model's choice of R66 over R153, which clears it at completion (log entry
11). -/
def Obligations.StepKeepsOpInv : Prop :=
  ∀ s t : State, s.OpInv → step s = .next t → t.OpInv

/-- Every step keeps the bounds of the register fields: R6, R43, R47, R51, R52, R60. -/
def Obligations.StepKeepsRegInv : Prop :=
  ∀ s t : State, s.RegInv → step s = .next t → t.RegInv

/-- Every step keeps both byte windows in canonical form (the model's own form, log entry 15). -/
def Obligations.StepKeepsMemInv : Prop :=
  ∀ s t : State, s.MemInv → step s = .next t → t.MemInv

/-- While an operation is in flight, DONE is 0 and it still waits for something: every step keeps this
(40_host_ops.md R152, R153). -/
def Obligations.StepKeepsFlightInv : Prop :=
  ∀ s t : State, s.FlightInv → step s = .next t → t.FlightInv

/-- Every step keeps a frame in progress with a byte left to emit, so that log entry 12's case is never
reached (41_tx_encoder.md R175). -/
def Obligations.StepKeepsWireInv : Prop :=
  ∀ s t : State, s.WireInv → step s = .next t → t.WireInv

/-! ### The end of a run -/

/-- A run ends or hangs (R318, R19), and never both. From an ended state every step keeps the run ended
and the block as it is. From a hung one, with the flight invariant, every step keeps it hung, with the
block and the program as they are: it is never a fault, a refusal or an end. The program, the list of
events and the transmit stream's acceptance in State are the model's (log entries 4, 22, 23, 24). -/
def Obligations.StepKeepsEndAndHang : Prop :=
  ∀ s : State,
    ¬ (s.ended ∧ s.hung) ∧
    (s.ended → ∃ t, step s = .next t ∧ t.ended ∧ t.blk = s.blk) ∧
    (s.FlightInv → s.hung → ∃ t, step s = .next t ∧ t.hung ∧ t.FlightInv ∧ t.blk = s.blk ∧
      t.env.program = s.env.program)

/-- When nothing is left that could give an agent a step: a program that is over has ended unless a wait is
left unanswered, which is a hang (R19; log entry 24); and `complete` (poll STATUS, 0x300; R133) hangs for ever
on an operation in flight, be it a wait that is not answered or a frame that ENABLE = 0 holds (R318, R312):
after any number of steps the run is hung and the block as it was. -/
def Obligations.UnansweredCompleteHangs : Prop :=
  ∀ (s : State) (more : List HostStmt), s.quiescent →
    (s.env.program = [] → (s.blk.waiting = false → s.ended) ∧ (s.blk.waiting = true → s.hung)) ∧
    (s.FlightInv → s.blk.curOp ≠ .none → s.blk.ev.opFail = false →
      s.env.program = .poll 0x008 0x300 :: more →
      ∀ n, ∃ t : State, Sys2Proof.core.run n s = .next t ∧ t.hung ∧ t.blk = s.blk)
end

