-- ==== Sys2Proof/Laws/Memory.lean ====
section
/-! SUPPORT. The byte windows: reading after writing, and the canonical form that every operation
keeps. -/

namespace Sys2Proof.Machine

@[simp] theorem Memory.read_nil (i : Nat) : Memory.read [] i = 0 := rfl

theorem Memory.wf_nil : Memory.wf [] = true := rfl

/-- Every index a canonical tail lists is above its bound. -/
theorem Memory.lt_of_wfAbove {l : Nat} : ∀ {m : Memory}, Memory.wfAbove (some l) m = true →
    ∀ c ∈ m, l < c.1
  | [], _, c, hc => by cases hc
  | (a, v) :: rest, h, c, hc => by
    simp only [Memory.wfAbove, Bool.and_eq_true, decide_eq_true_eq] at h
    rcases List.mem_cons.1 hc with rfl | hc
    · exact h.1.1
    · exact Nat.lt_trans h.1.1 (Memory.lt_of_wfAbove h.2 c hc)

/-- An index a list does not mention reads as the unlisted byte. -/
theorem Memory.read_of_not_listed : ∀ {m : Memory} {i : Nat}, (∀ c ∈ m, c.1 ≠ i) →
    Memory.read m i = 0
  | [], _, _ => rfl
  | (a, v) :: rest, i, h => by
    have ha : i ≠ a := fun e => h (a, v) (by simp) e.symm
    simp only [Memory.read, ha, if_false]
    exact Memory.read_of_not_listed fun c hc => h c (by simp [hc])

theorem Memory.read_of_wfAbove {m : Memory} {l i : Nat} (h : Memory.wfAbove (some l) m = true)
    (hi : i ≤ l) : Memory.read m i = 0 :=
  Memory.read_of_not_listed fun c hc => by
    have := Memory.lt_of_wfAbove h c hc
    omega

/-- Forgetting the bound keeps the canonical form. -/
theorem Memory.wfAbove_none {lo : Option Nat} : ∀ {m : Memory}, Memory.wfAbove lo m = true →
    Memory.wfAbove none m = true
  | [], _ => rfl
  | (a, v) :: rest, h => by
    simp only [Memory.wfAbove, Bool.and_eq_true] at h ⊢
    exact ⟨⟨trivial, h.1.2⟩, h.2⟩

/-- A canonical tail above a bound is canonical above a lower one. -/
theorem Memory.wfAbove_mono {l l' : Nat} (hl : l' ≤ l) : ∀ {m : Memory},
    Memory.wfAbove (some l) m = true → Memory.wfAbove (some l') m = true
  | [], _ => rfl
  | (a, v) :: rest, h => by
    simp only [Memory.wfAbove, Bool.and_eq_true, decide_eq_true_eq] at h ⊢
    exact ⟨⟨by omega, h.1.2⟩, h.2⟩

/-- Writing above a bound keeps the canonical form above it. -/
theorem Memory.write_wfAbove (i : Nat) (v : Byte) : ∀ {m : Memory} {lo : Option Nat},
    Memory.wfAbove lo m = true → (∀ l, lo = some l → l < i) →
    Memory.wfAbove lo (Memory.write m i v) = true
  | [], lo, _, hlo => by
    unfold Memory.write
    split
    · rfl
    · next hv =>
      cases lo with
      | none => simp [Memory.wfAbove, hv]
      | some l => simp [Memory.wfAbove, hv, hlo l rfl]
  | (a, x) :: rest, lo, h, hlo => by
    have hc := h
    simp only [Memory.wfAbove, Bool.and_eq_true] at h
    unfold Memory.write
    split
    · next hia =>
      split
      · exact hc
      · next hv =>
        simp only [Memory.wfAbove, Bool.and_eq_true, decide_eq_true_eq]
        refine ⟨⟨?_, by simpa using hv⟩, ⟨hia, h.1.2⟩, h.2⟩
        cases lo with
        | none => rfl
        | some l => simpa using hlo l rfl
    · split
      · next hge hia =>
        subst hia
        split
        · cases lo with
          | none => exact Memory.wfAbove_none h.2
          | some l => exact Memory.wfAbove_mono (Nat.le_of_lt (hlo l rfl)) h.2
        · next hv =>
          simp only [Memory.wfAbove, Bool.and_eq_true]
          exact ⟨⟨h.1.1, by simpa using hv⟩, h.2⟩
      · next hge hne =>
        simp only [Memory.wfAbove, Bool.and_eq_true]
        exact ⟨h.1, Memory.write_wfAbove i v h.2 fun l hl => by cases hl; omega⟩

/-- Every write keeps the canonical form. -/
theorem Memory.write_wf {m : Memory} (i : Nat) (v : Byte) (h : m.wf = true) :
    (m.write i v).wf = true :=
  Memory.write_wfAbove i v h fun _ hl => nomatch hl

/-- Reading what was written. -/
theorem Memory.read_write_same (i : Nat) (v : Byte) : ∀ {m : Memory} {lo : Option Nat},
    Memory.wfAbove lo m = true → Memory.read (Memory.write m i v) i = v
  | [], _, _ => by
    unfold Memory.write
    split
    · next hv => rw [hv]; rfl
    · simp [Memory.read]
  | (a, x) :: rest, lo, h => by
    simp only [Memory.wfAbove, Bool.and_eq_true] at h
    unfold Memory.write
    split
    · next hia =>
      split
      · next hv =>
        have : i ≠ a := by omega
        simp only [Memory.read, this, if_false]
        rw [Memory.read_of_wfAbove h.2 (Nat.le_of_lt hia), hv]; rfl
      · simp [Memory.read]
    · split
      · next hia =>
        subst hia
        split
        · next hv => rw [Memory.read_of_wfAbove h.2 (Nat.le_refl _), hv]; rfl
        · simp [Memory.read]
      · next hne =>
        simp only [Memory.read, hne, if_false]
        exact Memory.read_write_same i v h.2

/-- Every other slot reads as before. -/
theorem Memory.read_write_other {i j : Nat} (hij : j ≠ i) (v : Byte) : ∀ {m : Memory}
    {lo : Option Nat}, Memory.wfAbove lo m = true →
    Memory.read (Memory.write m i v) j = Memory.read m j
  | [], _, _ => by
    unfold Memory.write
    split
    · rfl
    · simp [Memory.read, hij, Memory.unlisted]
  | (a, x) :: rest, lo, h => by
    simp only [Memory.wfAbove, Bool.and_eq_true] at h
    unfold Memory.write
    split
    · split
      · rfl
      · simp [Memory.read, hij]
    · split
      · next hia =>
        subst hia
        split
        · simp [Memory.read, hij]
        · simp [Memory.read, hij]
      · simp only [Memory.read]
        split
        · rfl
        · exact Memory.read_write_other hij v h.2

/-- Both byte windows have the canonical form at reset. -/
theorem reset_windows_wf (p : Params) : (State.resetWith p).blk.txParam.wf = true ∧
    (State.resetWith p).blk.haltParam.wf = true := ⟨rfl, rfl⟩

end Sys2Proof.Machine
end

