-- ==== Sys2Proof/Laws/State.lean ====
section
/-! SUPPORT. One lemma per field per update of State and Block, true by rfl, so that no later proof
unfolds a record update. -/

namespace Sys2Proof.Machine

@[simp] theorem withBlk_blk (s : State) (b : Block) : (s.withBlk b).blk = b := rfl
@[simp] theorem withBlk_params (s : State) (b : Block) : (s.withBlk b).params = s.params := rfl
@[simp] theorem withBlk_env (s : State) (b : Block) : (s.withBlk b).env = s.env := rfl
@[simp] theorem settle_blk (s : State) : s.settle.blk = completionCheck s.blk := rfl
@[simp] theorem settle_params (s : State) : s.settle.params = s.params := rfl
@[simp] theorem settle_env (s : State) : s.settle.env = s.env := rfl
@[simp] theorem reply_blk (r : BusReply) (s : State) : (reply r s).blk = s.blk := rfl
@[simp] theorem reply_params (r : BusReply) (s : State) : (reply r s).params = s.params := rfl
@[simp] theorem reply_env (r : BusReply) (s : State) :
    (reply r s).env = { s.env with bus := s.env.bus ++ [r] } := rfl
@[simp] theorem resetBlock_blk (s : State) : (resetBlock s).blk = Block.reset := rfl
@[simp] theorem resetBlock_params (s : State) : (resetBlock s).params = s.params := rfl
@[simp] theorem resetBlock_env (s : State) : (resetBlock s).env = s.env := rfl

@[simp] theorem mirror_blk (d : Dir) (x : Byte) (s : State) : (mirror d x s).blk = s.blk := by
  unfold mirror; split <;> rfl
@[simp] theorem mirror_params (d : Dir) (x : Byte) (s : State) :
    (mirror d x s).params = s.params := by
  unfold mirror; split <;> rfl
theorem mirror_env (d : Dir) (x : Byte) (s : State) : (mirror d x s).env =
    { s.env with tee := if s.blk.debugTee then s.env.tee ++ [(d, x)] else s.env.tee } := by
  unfold mirror; split <;> rfl

@[simp] theorem beginOp_enable (b : Block) : (beginOp b).enable = b.enable := rfl
@[simp] theorem beginOp_notifyApply (b : Block) : (beginOp b).notifyApply = b.notifyApply := rfl
@[simp] theorem beginOp_debugTee (b : Block) : (beginOp b).debugTee = b.debugTee := rfl
@[simp] theorem beginOp_ev (b : Block) :
    (beginOp b).ev = { b.ev with done := false, opFail := false } := rfl
@[simp] theorem beginOp_replyValid (b : Block) : (beginOp b).replyValid = b.replyValid := rfl
@[simp] theorem beginOp_resCode (b : Block) : (beginOp b).resCode = b.resCode := rfl
@[simp] theorem beginOp_resOp (b : Block) : (beginOp b).resOp = b.resOp := rfl
@[simp] theorem beginOp_irqEn (b : Block) : (beginOp b).irqEn = b.irqEn := rfl
@[simp] theorem beginOp_notifySel (b : Block) : (beginOp b).notifySel = b.notifySel := rfl
@[simp] theorem beginOp_txHdr (b : Block) : (beginOp b).txHdr = b.txHdr := rfl
@[simp] theorem beginOp_txAux (b : Block) : (beginOp b).txAux = b.txAux := rfl
@[simp] theorem beginOp_txPlen (b : Block) : (beginOp b).txPlen = b.txPlen := rfl
@[simp] theorem beginOp_txParam (b : Block) : (beginOp b).txParam = b.txParam := rfl
@[simp] theorem beginOp_haltHdr (b : Block) : (beginOp b).haltHdr = b.haltHdr := rfl
@[simp] theorem beginOp_haltAux (b : Block) : (beginOp b).haltAux = b.haltAux := rfl
@[simp] theorem beginOp_haltPlen (b : Block) : (beginOp b).haltPlen = b.haltPlen := rfl
@[simp] theorem beginOp_haltArmed (b : Block) : (beginOp b).haltArmed = b.haltArmed := rfl
@[simp] theorem beginOp_haltParam (b : Block) : (beginOp b).haltParam = b.haltParam := rfl
@[simp] theorem beginOp_rxHdr (b : Block) : (beginOp b).rxHdr = b.rxHdr := rfl
@[simp] theorem beginOp_rxAux (b : Block) : (beginOp b).rxAux = b.rxAux := rfl
@[simp] theorem beginOp_rxPlen (b : Block) : (beginOp b).rxPlen = b.rxPlen := rfl
@[simp] theorem beginOp_rxPayload (b : Block) : (beginOp b).rxPayload = b.rxPayload := rfl
@[simp] theorem beginOp_posX (b : Block) : (beginOp b).posX = b.posX := rfl
@[simp] theorem beginOp_posY (b : Block) : (beginOp b).posY = b.posY := rfl
@[simp] theorem beginOp_posToken (b : Block) : (beginOp b).posToken = b.posToken := rfl
@[simp] theorem beginOp_xValid (b : Block) : (beginOp b).xValid = b.xValid := rfl
@[simp] theorem beginOp_yValid (b : Block) : (beginOp b).yValid = b.yValid := rfl
@[simp] theorem beginOp_yFresh (b : Block) : (beginOp b).yFresh = b.yFresh := rfl
@[simp] theorem beginOp_posCount (b : Block) : (beginOp b).posCount = b.posCount := rfl
@[simp] theorem beginOp_cnt (b : Block) : (beginOp b).cnt = b.cnt := rfl
@[simp] theorem beginOp_rxState (b : Block) : (beginOp b).rxState = b.rxState := rfl
@[simp] theorem beginOp_rxBuf (b : Block) : (beginOp b).rxBuf = b.rxBuf := rfl
@[simp] theorem beginOp_hostFrame (b : Block) : (beginOp b).hostFrame = b.hostFrame := rfl
@[simp] theorem beginOp_haltFrame (b : Block) : (beginOp b).haltFrame = b.haltFrame := rfl
@[simp] theorem beginOp_txCur (b : Block) : (beginOp b).txCur = b.txCur := rfl
@[simp] theorem beginOp_txWire (b : Block) : (beginOp b).txWire = b.txWire := rfl
@[simp] theorem beginOp_txPos (b : Block) : (beginOp b).txPos = b.txPos := rfl
@[simp] theorem beginOp_curOp (b : Block) : (beginOp b).curOp = b.curOp := rfl
@[simp] theorem beginOp_curSclass (b : Block) : (beginOp b).curSclass = b.curSclass := rfl
@[simp] theorem beginOp_waiting (b : Block) : (beginOp b).waiting = b.waiting := rfl
@[simp] theorem beginOp_expectCid (b : Block) : (beginOp b).expectCid = b.expectCid := rfl
@[simp] theorem beginOp_stream (b : Block) : (beginOp b).stream = b.stream := rfl

@[simp] theorem fail_enable (c : ResultCode) (o : BitVec 4) (b : Block) :
    (fail c o b).enable = b.enable := rfl
@[simp] theorem fail_notifyApply (c : ResultCode) (o : BitVec 4) (b : Block) :
    (fail c o b).notifyApply = b.notifyApply := rfl
@[simp] theorem fail_debugTee (c : ResultCode) (o : BitVec 4) (b : Block) :
    (fail c o b).debugTee = b.debugTee := rfl
@[simp] theorem fail_ev (c : ResultCode) (o : BitVec 4) (b : Block) :
    (fail c o b).ev = { b.ev with opFail := true } := rfl
@[simp] theorem fail_replyValid (c : ResultCode) (o : BitVec 4) (b : Block) :
    (fail c o b).replyValid = b.replyValid := rfl
@[simp] theorem fail_resCode (c : ResultCode) (o : BitVec 4) (b : Block) :
    (fail c o b).resCode = c := rfl
@[simp] theorem fail_resOp (c : ResultCode) (o : BitVec 4) (b : Block) :
    (fail c o b).resOp = o := rfl
@[simp] theorem fail_irqEn (c : ResultCode) (o : BitVec 4) (b : Block) :
    (fail c o b).irqEn = b.irqEn := rfl
@[simp] theorem fail_notifySel (c : ResultCode) (o : BitVec 4) (b : Block) :
    (fail c o b).notifySel = b.notifySel := rfl
@[simp] theorem fail_txHdr (c : ResultCode) (o : BitVec 4) (b : Block) :
    (fail c o b).txHdr = b.txHdr := rfl
@[simp] theorem fail_txAux (c : ResultCode) (o : BitVec 4) (b : Block) :
    (fail c o b).txAux = b.txAux := rfl
@[simp] theorem fail_txPlen (c : ResultCode) (o : BitVec 4) (b : Block) :
    (fail c o b).txPlen = b.txPlen := rfl
@[simp] theorem fail_txParam (c : ResultCode) (o : BitVec 4) (b : Block) :
    (fail c o b).txParam = b.txParam := rfl
@[simp] theorem fail_haltHdr (c : ResultCode) (o : BitVec 4) (b : Block) :
    (fail c o b).haltHdr = b.haltHdr := rfl
@[simp] theorem fail_haltAux (c : ResultCode) (o : BitVec 4) (b : Block) :
    (fail c o b).haltAux = b.haltAux := rfl
@[simp] theorem fail_haltPlen (c : ResultCode) (o : BitVec 4) (b : Block) :
    (fail c o b).haltPlen = b.haltPlen := rfl
@[simp] theorem fail_haltArmed (c : ResultCode) (o : BitVec 4) (b : Block) :
    (fail c o b).haltArmed = b.haltArmed := rfl
@[simp] theorem fail_haltParam (c : ResultCode) (o : BitVec 4) (b : Block) :
    (fail c o b).haltParam = b.haltParam := rfl
@[simp] theorem fail_rxHdr (c : ResultCode) (o : BitVec 4) (b : Block) :
    (fail c o b).rxHdr = b.rxHdr := rfl
@[simp] theorem fail_rxAux (c : ResultCode) (o : BitVec 4) (b : Block) :
    (fail c o b).rxAux = b.rxAux := rfl
@[simp] theorem fail_rxPlen (c : ResultCode) (o : BitVec 4) (b : Block) :
    (fail c o b).rxPlen = b.rxPlen := rfl
@[simp] theorem fail_rxPayload (c : ResultCode) (o : BitVec 4) (b : Block) :
    (fail c o b).rxPayload = b.rxPayload := rfl
@[simp] theorem fail_posX (c : ResultCode) (o : BitVec 4) (b : Block) :
    (fail c o b).posX = b.posX := rfl
@[simp] theorem fail_posY (c : ResultCode) (o : BitVec 4) (b : Block) :
    (fail c o b).posY = b.posY := rfl
@[simp] theorem fail_posToken (c : ResultCode) (o : BitVec 4) (b : Block) :
    (fail c o b).posToken = b.posToken := rfl
@[simp] theorem fail_xValid (c : ResultCode) (o : BitVec 4) (b : Block) :
    (fail c o b).xValid = b.xValid := rfl
@[simp] theorem fail_yValid (c : ResultCode) (o : BitVec 4) (b : Block) :
    (fail c o b).yValid = b.yValid := rfl
@[simp] theorem fail_yFresh (c : ResultCode) (o : BitVec 4) (b : Block) :
    (fail c o b).yFresh = b.yFresh := rfl
@[simp] theorem fail_posCount (c : ResultCode) (o : BitVec 4) (b : Block) :
    (fail c o b).posCount = b.posCount := rfl
@[simp] theorem fail_cnt (c : ResultCode) (o : BitVec 4) (b : Block) :
    (fail c o b).cnt = b.cnt := rfl
@[simp] theorem fail_rxState (c : ResultCode) (o : BitVec 4) (b : Block) :
    (fail c o b).rxState = b.rxState := rfl
@[simp] theorem fail_rxBuf (c : ResultCode) (o : BitVec 4) (b : Block) :
    (fail c o b).rxBuf = b.rxBuf := rfl
@[simp] theorem fail_hostFrame (c : ResultCode) (o : BitVec 4) (b : Block) :
    (fail c o b).hostFrame = b.hostFrame := rfl
@[simp] theorem fail_haltFrame (c : ResultCode) (o : BitVec 4) (b : Block) :
    (fail c o b).haltFrame = b.haltFrame := rfl
@[simp] theorem fail_txCur (c : ResultCode) (o : BitVec 4) (b : Block) :
    (fail c o b).txCur = b.txCur := rfl
@[simp] theorem fail_txWire (c : ResultCode) (o : BitVec 4) (b : Block) :
    (fail c o b).txWire = b.txWire := rfl
@[simp] theorem fail_txPos (c : ResultCode) (o : BitVec 4) (b : Block) :
    (fail c o b).txPos = b.txPos := rfl
@[simp] theorem fail_curOp (c : ResultCode) (o : BitVec 4) (b : Block) :
    (fail c o b).curOp = b.curOp := rfl
@[simp] theorem fail_curSclass (c : ResultCode) (o : BitVec 4) (b : Block) :
    (fail c o b).curSclass = b.curSclass := rfl
@[simp] theorem fail_waiting (c : ResultCode) (o : BitVec 4) (b : Block) :
    (fail c o b).waiting = b.waiting := rfl
@[simp] theorem fail_expectCid (c : ResultCode) (o : BitVec 4) (b : Block) :
    (fail c o b).expectCid = b.expectCid := rfl
@[simp] theorem fail_stream (c : ResultCode) (o : BitVec 4) (b : Block) :
    (fail c o b).stream = b.stream := rfl

@[simp] theorem raiseRxErr_enable (b : Block) : (raiseRxErr b).enable = b.enable := rfl
@[simp] theorem raiseRxErr_notifyApply (b : Block) :
    (raiseRxErr b).notifyApply = b.notifyApply := rfl
@[simp] theorem raiseRxErr_debugTee (b : Block) : (raiseRxErr b).debugTee = b.debugTee := rfl
@[simp] theorem raiseRxErr_ev (b : Block) : (raiseRxErr b).ev = { b.ev with rxErr := true } := rfl
@[simp] theorem raiseRxErr_replyValid (b : Block) : (raiseRxErr b).replyValid = b.replyValid := rfl
@[simp] theorem raiseRxErr_resCode (b : Block) : (raiseRxErr b).resCode = b.resCode := rfl
@[simp] theorem raiseRxErr_resOp (b : Block) : (raiseRxErr b).resOp = b.resOp := rfl
@[simp] theorem raiseRxErr_irqEn (b : Block) : (raiseRxErr b).irqEn = b.irqEn := rfl
@[simp] theorem raiseRxErr_notifySel (b : Block) : (raiseRxErr b).notifySel = b.notifySel := rfl
@[simp] theorem raiseRxErr_txHdr (b : Block) : (raiseRxErr b).txHdr = b.txHdr := rfl
@[simp] theorem raiseRxErr_txAux (b : Block) : (raiseRxErr b).txAux = b.txAux := rfl
@[simp] theorem raiseRxErr_txPlen (b : Block) : (raiseRxErr b).txPlen = b.txPlen := rfl
@[simp] theorem raiseRxErr_txParam (b : Block) : (raiseRxErr b).txParam = b.txParam := rfl
@[simp] theorem raiseRxErr_haltHdr (b : Block) : (raiseRxErr b).haltHdr = b.haltHdr := rfl
@[simp] theorem raiseRxErr_haltAux (b : Block) : (raiseRxErr b).haltAux = b.haltAux := rfl
@[simp] theorem raiseRxErr_haltPlen (b : Block) : (raiseRxErr b).haltPlen = b.haltPlen := rfl
@[simp] theorem raiseRxErr_haltArmed (b : Block) : (raiseRxErr b).haltArmed = b.haltArmed := rfl
@[simp] theorem raiseRxErr_haltParam (b : Block) : (raiseRxErr b).haltParam = b.haltParam := rfl
@[simp] theorem raiseRxErr_rxHdr (b : Block) : (raiseRxErr b).rxHdr = b.rxHdr := rfl
@[simp] theorem raiseRxErr_rxAux (b : Block) : (raiseRxErr b).rxAux = b.rxAux := rfl
@[simp] theorem raiseRxErr_rxPlen (b : Block) : (raiseRxErr b).rxPlen = b.rxPlen := rfl
@[simp] theorem raiseRxErr_rxPayload (b : Block) : (raiseRxErr b).rxPayload = b.rxPayload := rfl
@[simp] theorem raiseRxErr_posX (b : Block) : (raiseRxErr b).posX = b.posX := rfl
@[simp] theorem raiseRxErr_posY (b : Block) : (raiseRxErr b).posY = b.posY := rfl
@[simp] theorem raiseRxErr_posToken (b : Block) : (raiseRxErr b).posToken = b.posToken := rfl
@[simp] theorem raiseRxErr_xValid (b : Block) : (raiseRxErr b).xValid = b.xValid := rfl
@[simp] theorem raiseRxErr_yValid (b : Block) : (raiseRxErr b).yValid = b.yValid := rfl
@[simp] theorem raiseRxErr_yFresh (b : Block) : (raiseRxErr b).yFresh = b.yFresh := rfl
@[simp] theorem raiseRxErr_posCount (b : Block) : (raiseRxErr b).posCount = b.posCount := rfl
@[simp] theorem raiseRxErr_cnt (b : Block) : (raiseRxErr b).cnt = b.cnt := rfl
@[simp] theorem raiseRxErr_rxState (b : Block) : (raiseRxErr b).rxState = b.rxState := rfl
@[simp] theorem raiseRxErr_rxBuf (b : Block) : (raiseRxErr b).rxBuf = b.rxBuf := rfl
@[simp] theorem raiseRxErr_hostFrame (b : Block) : (raiseRxErr b).hostFrame = b.hostFrame := rfl
@[simp] theorem raiseRxErr_haltFrame (b : Block) : (raiseRxErr b).haltFrame = b.haltFrame := rfl
@[simp] theorem raiseRxErr_txCur (b : Block) : (raiseRxErr b).txCur = b.txCur := rfl
@[simp] theorem raiseRxErr_txWire (b : Block) : (raiseRxErr b).txWire = b.txWire := rfl
@[simp] theorem raiseRxErr_txPos (b : Block) : (raiseRxErr b).txPos = b.txPos := rfl
@[simp] theorem raiseRxErr_curOp (b : Block) : (raiseRxErr b).curOp = b.curOp := rfl
@[simp] theorem raiseRxErr_curSclass (b : Block) : (raiseRxErr b).curSclass = b.curSclass := rfl
@[simp] theorem raiseRxErr_waiting (b : Block) : (raiseRxErr b).waiting = b.waiting := rfl
@[simp] theorem raiseRxErr_expectCid (b : Block) : (raiseRxErr b).expectCid = b.expectCid := rfl
@[simp] theorem raiseRxErr_stream (b : Block) : (raiseRxErr b).stream = b.stream := rfl

@[simp] theorem arm_enable (e : Byte) (b : Block) : (arm e b).enable = b.enable := rfl
@[simp] theorem arm_notifyApply (e : Byte) (b : Block) :
    (arm e b).notifyApply = b.notifyApply := rfl
@[simp] theorem arm_debugTee (e : Byte) (b : Block) : (arm e b).debugTee = b.debugTee := rfl
@[simp] theorem arm_ev (e : Byte) (b : Block) : (arm e b).ev = b.ev := rfl
@[simp] theorem arm_replyValid (e : Byte) (b : Block) : (arm e b).replyValid = false := rfl
@[simp] theorem arm_resCode (e : Byte) (b : Block) : (arm e b).resCode = b.resCode := rfl
@[simp] theorem arm_resOp (e : Byte) (b : Block) : (arm e b).resOp = b.resOp := rfl
@[simp] theorem arm_irqEn (e : Byte) (b : Block) : (arm e b).irqEn = b.irqEn := rfl
@[simp] theorem arm_notifySel (e : Byte) (b : Block) : (arm e b).notifySel = b.notifySel := rfl
@[simp] theorem arm_txHdr (e : Byte) (b : Block) : (arm e b).txHdr = b.txHdr := rfl
@[simp] theorem arm_txAux (e : Byte) (b : Block) : (arm e b).txAux = b.txAux := rfl
@[simp] theorem arm_txPlen (e : Byte) (b : Block) : (arm e b).txPlen = b.txPlen := rfl
@[simp] theorem arm_txParam (e : Byte) (b : Block) : (arm e b).txParam = b.txParam := rfl
@[simp] theorem arm_haltHdr (e : Byte) (b : Block) : (arm e b).haltHdr = b.haltHdr := rfl
@[simp] theorem arm_haltAux (e : Byte) (b : Block) : (arm e b).haltAux = b.haltAux := rfl
@[simp] theorem arm_haltPlen (e : Byte) (b : Block) : (arm e b).haltPlen = b.haltPlen := rfl
@[simp] theorem arm_haltArmed (e : Byte) (b : Block) : (arm e b).haltArmed = b.haltArmed := rfl
@[simp] theorem arm_haltParam (e : Byte) (b : Block) : (arm e b).haltParam = b.haltParam := rfl
@[simp] theorem arm_rxHdr (e : Byte) (b : Block) : (arm e b).rxHdr = b.rxHdr := rfl
@[simp] theorem arm_rxAux (e : Byte) (b : Block) : (arm e b).rxAux = b.rxAux := rfl
@[simp] theorem arm_rxPlen (e : Byte) (b : Block) : (arm e b).rxPlen = b.rxPlen := rfl
@[simp] theorem arm_rxPayload (e : Byte) (b : Block) : (arm e b).rxPayload = b.rxPayload := rfl
@[simp] theorem arm_posX (e : Byte) (b : Block) : (arm e b).posX = b.posX := rfl
@[simp] theorem arm_posY (e : Byte) (b : Block) : (arm e b).posY = b.posY := rfl
@[simp] theorem arm_posToken (e : Byte) (b : Block) : (arm e b).posToken = b.posToken := rfl
@[simp] theorem arm_xValid (e : Byte) (b : Block) : (arm e b).xValid = b.xValid := rfl
@[simp] theorem arm_yValid (e : Byte) (b : Block) : (arm e b).yValid = b.yValid := rfl
@[simp] theorem arm_yFresh (e : Byte) (b : Block) : (arm e b).yFresh = b.yFresh := rfl
@[simp] theorem arm_posCount (e : Byte) (b : Block) : (arm e b).posCount = b.posCount := rfl
@[simp] theorem arm_cnt (e : Byte) (b : Block) : (arm e b).cnt = b.cnt := rfl
@[simp] theorem arm_rxState (e : Byte) (b : Block) : (arm e b).rxState = b.rxState := rfl
@[simp] theorem arm_rxBuf (e : Byte) (b : Block) : (arm e b).rxBuf = b.rxBuf := rfl
@[simp] theorem arm_hostFrame (e : Byte) (b : Block) : (arm e b).hostFrame = b.hostFrame := rfl
@[simp] theorem arm_haltFrame (e : Byte) (b : Block) : (arm e b).haltFrame = b.haltFrame := rfl
@[simp] theorem arm_txCur (e : Byte) (b : Block) : (arm e b).txCur = b.txCur := rfl
@[simp] theorem arm_txWire (e : Byte) (b : Block) : (arm e b).txWire = b.txWire := rfl
@[simp] theorem arm_txPos (e : Byte) (b : Block) : (arm e b).txPos = b.txPos := rfl
@[simp] theorem arm_curOp (e : Byte) (b : Block) : (arm e b).curOp = b.curOp := rfl
@[simp] theorem arm_curSclass (e : Byte) (b : Block) : (arm e b).curSclass = b.curSclass := rfl
@[simp] theorem arm_waiting (e : Byte) (b : Block) : (arm e b).waiting = true := rfl
@[simp] theorem arm_expectCid (e : Byte) (b : Block) : (arm e b).expectCid = e := rfl
@[simp] theorem arm_stream (e : Byte) (b : Block) : (arm e b).stream = b.stream := rfl

@[simp] theorem admitted_enable (o : BitVec 4) (b : Block) : (admitted o b).enable = b.enable := rfl
@[simp] theorem admitted_notifyApply (o : BitVec 4) (b : Block) :
    (admitted o b).notifyApply = b.notifyApply := rfl
@[simp] theorem admitted_debugTee (o : BitVec 4) (b : Block) :
    (admitted o b).debugTee = b.debugTee := rfl
@[simp] theorem admitted_ev (o : BitVec 4) (b : Block) : (admitted o b).ev = b.ev := rfl
@[simp] theorem admitted_replyValid (o : BitVec 4) (b : Block) :
    (admitted o b).replyValid = b.replyValid := rfl
@[simp] theorem admitted_resCode (o : BitVec 4) (b : Block) : (admitted o b).resCode = .ok := rfl
@[simp] theorem admitted_resOp (o : BitVec 4) (b : Block) : (admitted o b).resOp = o := rfl
@[simp] theorem admitted_irqEn (o : BitVec 4) (b : Block) : (admitted o b).irqEn = b.irqEn := rfl
@[simp] theorem admitted_notifySel (o : BitVec 4) (b : Block) :
    (admitted o b).notifySel = b.notifySel := rfl
@[simp] theorem admitted_txHdr (o : BitVec 4) (b : Block) : (admitted o b).txHdr = b.txHdr := rfl
@[simp] theorem admitted_txAux (o : BitVec 4) (b : Block) : (admitted o b).txAux = b.txAux := rfl
@[simp] theorem admitted_txPlen (o : BitVec 4) (b : Block) : (admitted o b).txPlen = b.txPlen := rfl
@[simp] theorem admitted_txParam (o : BitVec 4) (b : Block) :
    (admitted o b).txParam = b.txParam := rfl
@[simp] theorem admitted_haltHdr (o : BitVec 4) (b : Block) :
    (admitted o b).haltHdr = b.haltHdr := rfl
@[simp] theorem admitted_haltAux (o : BitVec 4) (b : Block) :
    (admitted o b).haltAux = b.haltAux := rfl
@[simp] theorem admitted_haltPlen (o : BitVec 4) (b : Block) :
    (admitted o b).haltPlen = b.haltPlen := rfl
@[simp] theorem admitted_haltArmed (o : BitVec 4) (b : Block) :
    (admitted o b).haltArmed = b.haltArmed := rfl
@[simp] theorem admitted_haltParam (o : BitVec 4) (b : Block) :
    (admitted o b).haltParam = b.haltParam := rfl
@[simp] theorem admitted_rxHdr (o : BitVec 4) (b : Block) : (admitted o b).rxHdr = b.rxHdr := rfl
@[simp] theorem admitted_rxAux (o : BitVec 4) (b : Block) : (admitted o b).rxAux = b.rxAux := rfl
@[simp] theorem admitted_rxPlen (o : BitVec 4) (b : Block) : (admitted o b).rxPlen = b.rxPlen := rfl
@[simp] theorem admitted_rxPayload (o : BitVec 4) (b : Block) :
    (admitted o b).rxPayload = b.rxPayload := rfl
@[simp] theorem admitted_posX (o : BitVec 4) (b : Block) : (admitted o b).posX = b.posX := rfl
@[simp] theorem admitted_posY (o : BitVec 4) (b : Block) : (admitted o b).posY = b.posY := rfl
@[simp] theorem admitted_posToken (o : BitVec 4) (b : Block) :
    (admitted o b).posToken = b.posToken := rfl
@[simp] theorem admitted_xValid (o : BitVec 4) (b : Block) : (admitted o b).xValid = b.xValid := rfl
@[simp] theorem admitted_yValid (o : BitVec 4) (b : Block) : (admitted o b).yValid = b.yValid := rfl
@[simp] theorem admitted_yFresh (o : BitVec 4) (b : Block) : (admitted o b).yFresh = b.yFresh := rfl
@[simp] theorem admitted_posCount (o : BitVec 4) (b : Block) :
    (admitted o b).posCount = b.posCount := rfl
@[simp] theorem admitted_cnt (o : BitVec 4) (b : Block) : (admitted o b).cnt = b.cnt := rfl
@[simp] theorem admitted_rxState (o : BitVec 4) (b : Block) :
    (admitted o b).rxState = b.rxState := rfl
@[simp] theorem admitted_rxBuf (o : BitVec 4) (b : Block) : (admitted o b).rxBuf = b.rxBuf := rfl
@[simp] theorem admitted_hostFrame (o : BitVec 4) (b : Block) :
    (admitted o b).hostFrame = b.hostFrame := rfl
@[simp] theorem admitted_haltFrame (o : BitVec 4) (b : Block) :
    (admitted o b).haltFrame = b.haltFrame := rfl
@[simp] theorem admitted_txCur (o : BitVec 4) (b : Block) : (admitted o b).txCur = b.txCur := rfl
@[simp] theorem admitted_txWire (o : BitVec 4) (b : Block) : (admitted o b).txWire = b.txWire := rfl
@[simp] theorem admitted_txPos (o : BitVec 4) (b : Block) : (admitted o b).txPos = b.txPos := rfl
@[simp] theorem admitted_curOp (o : BitVec 4) (b : Block) : (admitted o b).curOp = b.curOp := rfl
@[simp] theorem admitted_curSclass (o : BitVec 4) (b : Block) :
    (admitted o b).curSclass = b.curSclass := rfl
@[simp] theorem admitted_waiting (o : BitVec 4) (b : Block) :
    (admitted o b).waiting = b.waiting := rfl
@[simp] theorem admitted_expectCid (o : BitVec 4) (b : Block) :
    (admitted o b).expectCid = b.expectCid := rfl
@[simp] theorem admitted_stream (o : BitVec 4) (b : Block) : (admitted o b).stream = b.stream := rfl

@[simp] theorem capture_enable (f : RxFrame) (b : Block) : (capture f b).enable = b.enable := rfl
@[simp] theorem capture_notifyApply (f : RxFrame) (b : Block) :
    (capture f b).notifyApply = b.notifyApply := rfl
@[simp] theorem capture_debugTee (f : RxFrame) (b : Block) :
    (capture f b).debugTee = b.debugTee := rfl
@[simp] theorem capture_ev (f : RxFrame) (b : Block) : (capture f b).ev = b.ev := rfl
@[simp] theorem capture_replyValid (f : RxFrame) (b : Block) :
    (capture f b).replyValid = true := rfl
@[simp] theorem capture_resCode (f : RxFrame) (b : Block) : (capture f b).resCode = b.resCode := rfl
@[simp] theorem capture_resOp (f : RxFrame) (b : Block) : (capture f b).resOp = b.resOp := rfl
@[simp] theorem capture_irqEn (f : RxFrame) (b : Block) : (capture f b).irqEn = b.irqEn := rfl
@[simp] theorem capture_notifySel (f : RxFrame) (b : Block) :
    (capture f b).notifySel = b.notifySel := rfl
@[simp] theorem capture_txHdr (f : RxFrame) (b : Block) : (capture f b).txHdr = b.txHdr := rfl
@[simp] theorem capture_txAux (f : RxFrame) (b : Block) : (capture f b).txAux = b.txAux := rfl
@[simp] theorem capture_txPlen (f : RxFrame) (b : Block) : (capture f b).txPlen = b.txPlen := rfl
@[simp] theorem capture_txParam (f : RxFrame) (b : Block) : (capture f b).txParam = b.txParam := rfl
@[simp] theorem capture_haltHdr (f : RxFrame) (b : Block) : (capture f b).haltHdr = b.haltHdr := rfl
@[simp] theorem capture_haltAux (f : RxFrame) (b : Block) : (capture f b).haltAux = b.haltAux := rfl
@[simp] theorem capture_haltPlen (f : RxFrame) (b : Block) :
    (capture f b).haltPlen = b.haltPlen := rfl
@[simp] theorem capture_haltArmed (f : RxFrame) (b : Block) :
    (capture f b).haltArmed = b.haltArmed := rfl
@[simp] theorem capture_haltParam (f : RxFrame) (b : Block) :
    (capture f b).haltParam = b.haltParam := rfl
@[simp] theorem capture_rxHdr (f : RxFrame) (b : Block) : (capture f b).rxHdr = captureHdr f := rfl
@[simp] theorem capture_rxAux (f : RxFrame) (b : Block) : (capture f b).rxAux = captureAux f := rfl
@[simp] theorem capture_rxPlen (f : RxFrame) (b : Block) :
    (capture f b).rxPlen = BitVec.ofNat 9 f.payload.length := rfl
@[simp] theorem capture_rxPayload (f : RxFrame) (b : Block) :
    (capture f b).rxPayload = f.payload := rfl
@[simp] theorem capture_posX (f : RxFrame) (b : Block) : (capture f b).posX = b.posX := rfl
@[simp] theorem capture_posY (f : RxFrame) (b : Block) : (capture f b).posY = b.posY := rfl
@[simp] theorem capture_posToken (f : RxFrame) (b : Block) :
    (capture f b).posToken = b.posToken := rfl
@[simp] theorem capture_xValid (f : RxFrame) (b : Block) : (capture f b).xValid = b.xValid := rfl
@[simp] theorem capture_yValid (f : RxFrame) (b : Block) : (capture f b).yValid = b.yValid := rfl
@[simp] theorem capture_yFresh (f : RxFrame) (b : Block) : (capture f b).yFresh = b.yFresh := rfl
@[simp] theorem capture_posCount (f : RxFrame) (b : Block) :
    (capture f b).posCount = b.posCount := rfl
@[simp] theorem capture_cnt (f : RxFrame) (b : Block) : (capture f b).cnt = b.cnt := rfl
@[simp] theorem capture_rxState (f : RxFrame) (b : Block) : (capture f b).rxState = b.rxState := rfl
@[simp] theorem capture_rxBuf (f : RxFrame) (b : Block) : (capture f b).rxBuf = b.rxBuf := rfl
@[simp] theorem capture_hostFrame (f : RxFrame) (b : Block) :
    (capture f b).hostFrame = b.hostFrame := rfl
@[simp] theorem capture_haltFrame (f : RxFrame) (b : Block) :
    (capture f b).haltFrame = b.haltFrame := rfl
@[simp] theorem capture_txCur (f : RxFrame) (b : Block) : (capture f b).txCur = b.txCur := rfl
@[simp] theorem capture_txWire (f : RxFrame) (b : Block) : (capture f b).txWire = b.txWire := rfl
@[simp] theorem capture_txPos (f : RxFrame) (b : Block) : (capture f b).txPos = b.txPos := rfl
@[simp] theorem capture_curOp (f : RxFrame) (b : Block) : (capture f b).curOp = b.curOp := rfl
@[simp] theorem capture_curSclass (f : RxFrame) (b : Block) :
    (capture f b).curSclass = b.curSclass := rfl
@[simp] theorem capture_waiting (f : RxFrame) (b : Block) : (capture f b).waiting = false := rfl
@[simp] theorem capture_expectCid (f : RxFrame) (b : Block) :
    (capture f b).expectCid = b.expectCid := rfl
@[simp] theorem capture_stream (f : RxFrame) (b : Block) : (capture f b).stream = b.stream := rfl

@[simp] theorem applyPosition_enable (f : RxFrame) (b : Block) :
    (applyPosition f b).enable = b.enable := rfl
@[simp] theorem applyPosition_notifyApply (f : RxFrame) (b : Block) :
    (applyPosition f b).notifyApply = b.notifyApply := rfl
@[simp] theorem applyPosition_debugTee (f : RxFrame) (b : Block) :
    (applyPosition f b).debugTee = b.debugTee := rfl
@[simp] theorem applyPosition_ev (f : RxFrame) (b : Block) :
    (applyPosition f b).ev = { b.ev with posUpd := true } := rfl
@[simp] theorem applyPosition_replyValid (f : RxFrame) (b : Block) :
    (applyPosition f b).replyValid = b.replyValid := rfl
@[simp] theorem applyPosition_resCode (f : RxFrame) (b : Block) :
    (applyPosition f b).resCode = b.resCode := rfl
@[simp] theorem applyPosition_resOp (f : RxFrame) (b : Block) :
    (applyPosition f b).resOp = b.resOp := rfl
@[simp] theorem applyPosition_irqEn (f : RxFrame) (b : Block) :
    (applyPosition f b).irqEn = b.irqEn := rfl
@[simp] theorem applyPosition_notifySel (f : RxFrame) (b : Block) :
    (applyPosition f b).notifySel = b.notifySel := rfl
@[simp] theorem applyPosition_txHdr (f : RxFrame) (b : Block) :
    (applyPosition f b).txHdr = b.txHdr := rfl
@[simp] theorem applyPosition_txAux (f : RxFrame) (b : Block) :
    (applyPosition f b).txAux = b.txAux := rfl
@[simp] theorem applyPosition_txPlen (f : RxFrame) (b : Block) :
    (applyPosition f b).txPlen = b.txPlen := rfl
@[simp] theorem applyPosition_txParam (f : RxFrame) (b : Block) :
    (applyPosition f b).txParam = b.txParam := rfl
@[simp] theorem applyPosition_haltHdr (f : RxFrame) (b : Block) :
    (applyPosition f b).haltHdr = b.haltHdr := rfl
@[simp] theorem applyPosition_haltAux (f : RxFrame) (b : Block) :
    (applyPosition f b).haltAux = b.haltAux := rfl
@[simp] theorem applyPosition_haltPlen (f : RxFrame) (b : Block) :
    (applyPosition f b).haltPlen = b.haltPlen := rfl
@[simp] theorem applyPosition_haltArmed (f : RxFrame) (b : Block) :
    (applyPosition f b).haltArmed = b.haltArmed := rfl
@[simp] theorem applyPosition_haltParam (f : RxFrame) (b : Block) :
    (applyPosition f b).haltParam = b.haltParam := rfl
@[simp] theorem applyPosition_rxHdr (f : RxFrame) (b : Block) :
    (applyPosition f b).rxHdr = b.rxHdr := rfl
@[simp] theorem applyPosition_rxAux (f : RxFrame) (b : Block) :
    (applyPosition f b).rxAux = b.rxAux := rfl
@[simp] theorem applyPosition_rxPlen (f : RxFrame) (b : Block) :
    (applyPosition f b).rxPlen = b.rxPlen := rfl
@[simp] theorem applyPosition_rxPayload (f : RxFrame) (b : Block) :
    (applyPosition f b).rxPayload = b.rxPayload := rfl
@[simp] theorem applyPosition_posX (f : RxFrame) (b : Block) :
    (applyPosition f b).posX = be32 (f.payload.getD 1 0) (f.payload.getD 2 0) (f.payload.getD 3 0) (f.payload.getD 4 0) := rfl
@[simp] theorem applyPosition_posY (f : RxFrame) (b : Block) :
    (applyPosition f b).posY = if f.payload.length == 9 then be32 (f.payload.getD 5 0) (f.payload.getD 6 0) (f.payload.getD 7 0) (f.payload.getD 8 0) else b.posY := rfl
@[simp] theorem applyPosition_posToken (f : RxFrame) (b : Block) :
    (applyPosition f b).posToken = f.payload.getD 0 0 := rfl
@[simp] theorem applyPosition_xValid (f : RxFrame) (b : Block) :
    (applyPosition f b).xValid = true := rfl
@[simp] theorem applyPosition_yValid (f : RxFrame) (b : Block) :
    (applyPosition f b).yValid = if f.payload.length == 9 then true else b.yValid := rfl
@[simp] theorem applyPosition_yFresh (f : RxFrame) (b : Block) :
    (applyPosition f b).yFresh = (f.payload.length == 9) := rfl
@[simp] theorem applyPosition_posCount (f : RxFrame) (b : Block) :
    (applyPosition f b).posCount = b.posCount + 1 := rfl
@[simp] theorem applyPosition_cnt (f : RxFrame) (b : Block) : (applyPosition f b).cnt = b.cnt := rfl
@[simp] theorem applyPosition_rxState (f : RxFrame) (b : Block) :
    (applyPosition f b).rxState = b.rxState := rfl
@[simp] theorem applyPosition_rxBuf (f : RxFrame) (b : Block) :
    (applyPosition f b).rxBuf = b.rxBuf := rfl
@[simp] theorem applyPosition_hostFrame (f : RxFrame) (b : Block) :
    (applyPosition f b).hostFrame = b.hostFrame := rfl
@[simp] theorem applyPosition_haltFrame (f : RxFrame) (b : Block) :
    (applyPosition f b).haltFrame = b.haltFrame := rfl
@[simp] theorem applyPosition_txCur (f : RxFrame) (b : Block) :
    (applyPosition f b).txCur = b.txCur := rfl
@[simp] theorem applyPosition_txWire (f : RxFrame) (b : Block) :
    (applyPosition f b).txWire = b.txWire := rfl
@[simp] theorem applyPosition_txPos (f : RxFrame) (b : Block) :
    (applyPosition f b).txPos = b.txPos := rfl
@[simp] theorem applyPosition_curOp (f : RxFrame) (b : Block) :
    (applyPosition f b).curOp = b.curOp := rfl
@[simp] theorem applyPosition_curSclass (f : RxFrame) (b : Block) :
    (applyPosition f b).curSclass = b.curSclass := rfl
@[simp] theorem applyPosition_waiting (f : RxFrame) (b : Block) :
    (applyPosition f b).waiting = b.waiting := rfl
@[simp] theorem applyPosition_expectCid (f : RxFrame) (b : Block) :
    (applyPosition f b).expectCid = b.expectCid := rfl
@[simp] theorem applyPosition_stream (f : RxFrame) (b : Block) :
    (applyPosition f b).stream = b.stream := rfl

end Sys2Proof.Machine
end

