-- ==== Sys2Proof/Laws/Ops.lean ====
section
/-! SUPPORT. For each shared operation, what it can do, said once. -/

namespace Sys2Proof.Machine

@[simp] theorem beq_host (c : TxCur) : (c == TxCur.host) = decide (c = .host) := by cases c <;> rfl
@[simp] theorem beq_halt (c : TxCur) : (c == TxCur.halt) = decide (c = .halt) := by cases c <;> rfl

theorem txBusy_iff (b : Block) : b.txBusy = true ↔ b.hostFrame ≠ none ∨ b.txCur = .host := by
  simp [Block.txBusy, Option.isSome_iff_ne_none]

theorem haltBusy_iff (b : Block) : b.haltBusy = true ↔ b.haltFrame ≠ none ∨ b.txCur = .halt := by
  simp [Block.haltBusy, Option.isSome_iff_ne_none]

/-- The bits of a placed field. -/
theorem getLsbD_field {n : Nat} (v : BitVec n) (k i : Nat) : (field v k).getLsbD i =
    (decide (i < 32) && decide (k ≤ i) && v.getLsbD (i - k)) := by
  unfold field
  by_cases hk : i < k <;> by_cases h : i < 32 <;> simp [hk, h]
  all_goals omega

/-- The bits of a placed one-bit field. -/
theorem getLsbD_flag (b : Bool) (k i : Nat) : (flag b k).getLsbD i =
    (decide (i < 32) && decide (i = k) && b) := by
  unfold flag
  rw [getLsbD_field]
  by_cases h : i = k
  · subst h; cases b <;> simp
  · by_cases hk : k ≤ i
    · have : i - k ≠ 0 := by omega
      cases b <;> simp [h, this]
    · cases b <;> simp [h, hk]

/-- R153's check has nothing to do. -/
def Block.unfinished (b : Block) : Prop :=
  b.curOp ≠ .none → b.hostFrame ≠ none ∨ b.txCur = .host ∨ b.waiting = true

/-- The completion check completes the operation in flight, or changes nothing. -/
theorem completionCheck_cases (b : Block) :
    (¬ b.unfinished ∧ b.curOp ≠ .none ∧ b.hostFrame = none ∧ b.txCur ≠ .host ∧ b.waiting = false ∧
      completionCheck b =
        { b with ev := { b.ev with done := true }, curOp := .none, curSclass := .none }) ∨
    (b.unfinished ∧ completionCheck b = b) := by
  unfold completionCheck
  have hb := txBusy_iff b
  split
  · next h =>
    obtain ⟨h1, h2, h3⟩ := h
    have : ¬ (b.hostFrame ≠ none ∨ b.txCur = .host) := by rw [← hb]; simp [h2]
    rw [not_or, not_not] at this
    refine .inl ⟨fun hu => ?_, h1, this.1, this.2, h3, rfl⟩
    rcases hu h1 with h | h | h
    · exact h this.1
    · exact this.2 h
    · rw [h3] at h; cases h
  · next h =>
    refine .inr ⟨fun h1 => ?_, rfl⟩
    by_contra hc
    rw [not_or, not_or] at hc
    refine h ⟨h1, ?_, ?_⟩
    · have : ¬ b.txBusy = true := by rw [hb]; rintro (h | h); exacts [hc.1 h, hc.2.1 h]
      simpa using this
    · simpa using hc.2.2

theorem completionCheck_of_unfinished {b : Block} (h : b.unfinished) : completionCheck b = b := by
  rcases completionCheck_cases b with ⟨h', -⟩ | ⟨-, h'⟩
  · exact absurd h h'
  · exact h'

/-- What the completion check leaves needs no further completion. -/
theorem completionCheck_unfinished (b : Block) : (completionCheck b).unfinished := by
  rcases completionCheck_cases b with ⟨-, -, -, -, -, h⟩ | ⟨hu, h⟩
  · rw [h]; intro h'; exact absurd rfl h'
  · rw [h]; exact hu

/-- SEND's and SEND_WAIT's admission: refused by the first failed check, or admitted with its class. -/
theorem admission_cases (sclass : BitVec 3) (b : Block) :
    (∃ code, code ≠ .ok ∧ admission sclass b = .error code) ∨
    (∃ cls, sclassOf sclass = some cls ∧ b.enable = true ∧ b.curOp = .none ∧
      streamCheck cls b.stream = .ok ∧ admission sclass b = .ok cls) := by
  unfold admission
  cases hs : sclassOf sclass with
  | none => exact .inl ⟨.badClass, by decide, rfl⟩
  | some cls =>
    unfold readyCheck
    by_cases he : b.enable = false
    · exact .inl ⟨.notReady, by decide, by simp [he]⟩
    · by_cases hc : b.curOp = .none
      · by_cases hk : streamCheck cls b.stream = .ok
        · exact .inr ⟨cls, rfl, by simpa using he, hc, hk, by simp [he, hc, hk]⟩
        · refine .inl ⟨streamCheck cls b.stream, hk, ?_⟩
          cases hk' : streamCheck cls b.stream <;> simp_all
      · exact .inl ⟨.busy, by decide, by simp [he, hc]⟩

/-- A content byte is appended, or overflows the buffer. -/
theorem appendByte_cases (p : Params) (v : Byte) (b : Block) :
    (b.rxBuf.length = p.rxMax ∧ appendByte p v b = overflow b) ∨
    (b.rxBuf.length ≠ p.rxMax ∧ appendByte p v b = { b with rxBuf := b.rxBuf ++ [v] }) := by
  unfold appendByte
  split
  · exact .inl ⟨‹_›, rfl⟩
  · exact .inr ⟨‹_›, rfl⟩

/-- The correlator's four cases. -/
theorem correlate_cases (f : RxFrame) (b : Block) :
    (isMatch f b = true ∧ isPosition f b = true ∧
      correlate f b = applyPosition f (capture f b)) ∨
    (isMatch f b = true ∧ isPosition f b = false ∧ correlate f b = capture f b) ∨
    (isMatch f b = false ∧ isPosition f b = true ∧ correlate f b = applyPosition f b) ∨
    (isMatch f b = false ∧ isPosition f b = false ∧
      correlate f b = { b with cnt := { b.cnt with drop := b.cnt.drop + 1 } }) := by
  unfold correlate
  cases isMatch f b <;> cases isPosition f b <;> simp

/-- A frame is short, fails its checksum, or is valid and correlated. -/
theorem processFrame_cases (buf : List Byte) (b : Block) :
    (processFrame buf b = shortFrame b ∧ (buf = [] ∨ ∃ body, buf = body ++ [cks body] ∧
      (body = [] ∨ body.length < hlen (body.headD 0)))) ∨
    (processFrame buf b = checksumFail b ∧ ∃ body c, buf = body ++ [c] ∧ c ≠ cks body) ∨
    (∃ body, buf = body ++ [cks body] ∧ body ≠ [] ∧ hlen (body.headD 0) ≤ body.length ∧
      processFrame buf b =
        correlate (parse body) { b with cnt := { b.cnt with ok := b.cnt.ok + 1 } }) := by
  rcases List.eq_nil_or_concat buf with rfl | ⟨body, c, rfl⟩
  · exact .inl ⟨rfl, .inl rfl⟩
  · have hd : body.getD 0 0 = body.headD 0 := by cases body <;> rfl
    simp only [processFrame, List.concat_eq_append, List.getLast?_append, List.getLast?_singleton,
      Option.some_or, List.dropLast_concat, hd]
    by_cases hc : c = cks body
    · subst hc
      rw [if_neg (by simp)]
      by_cases hl : body.length = 0 ∨ body.length < hlen (body.headD 0)
      · rw [if_pos hl]
        exact .inl ⟨rfl, .inr ⟨body, rfl, hl.imp_left List.length_eq_zero_iff.1⟩⟩
      · rw [if_neg hl]
        rw [not_or] at hl
        exact .inr (.inr ⟨body, rfl, fun h => hl.1 (by simp [h]), by omega, rfl⟩)
    · rw [if_pos hc]
      exact .inr (.inl ⟨rfl, body, c, rfl, hc⟩)

/-- One received byte. -/
theorem rxByte_cases (p : Params) (x : Byte) (b : Block) :
    (b.rxState = .hunt ∧ x = SOP ∧ rxByte p x b = { b with rxBuf := [], rxState := .body }) ∨
    (b.rxState = .hunt ∧ x ≠ SOP ∧
      rxByte p x b = { b with cnt := { b.cnt with skip := b.cnt.skip + 1 } }) ∨
    (b.rxState = .body ∧ x = EOP ∧
      rxByte p x b = { processFrame b.rxBuf b with rxBuf := [], rxState := .hunt }) ∨
    (b.rxState = .body ∧ x = ESC ∧ rxByte p x b = { b with rxState := .esc }) ∨
    (b.rxState = .body ∧ x ≠ EOP ∧ x ≠ ESC ∧ rxByte p x b = appendByte p x b) ∨
    (b.rxState = .esc ∧
      rxByte p x b = appendByte p (x ^^^ XMASK) { b with rxState := .body }) := by
  unfold rxByte
  cases hs : b.rxState with
  | hunt =>
    by_cases hx : x = SOP
    · exact .inl ⟨rfl, hx, by simp [hx]⟩
    · exact .inr (.inl ⟨rfl, hx, by simp [hx]⟩)
  | body =>
    by_cases he : x = EOP
    · exact .inr (.inr (.inl ⟨rfl, he, by simp [he]⟩))
    · by_cases hc : x = ESC
      · exact .inr (.inr (.inr (.inl ⟨rfl, hc, by simp [hc, ESC, EOP]⟩)))
      · exact .inr (.inr (.inr (.inr (.inl ⟨rfl, he, hc, by simp [he, hc]⟩))))
  | esc => exact .inr (.inr (.inr (.inr (.inr ⟨rfl, rfl⟩))))

/-- The wire encoding of a frame is its start delimiter and a non-empty rest. -/
theorem stuff_eq_cons (content : List Byte) :
    stuff content = SOP :: (stuffBody content ++ [EOP]) := rfl

theorem stuff_length (content : List Byte) :
    (stuff content).length = (stuffBody content).length + 2 := by
  simp [stuff]

/-- The TX agent's step: it starts a queued halt frame, starts a queued host frame, or emits the next
byte of the frame in progress. -/
theorem txByte_cases {b b' : Block} {x : Byte} (h : txByte b = some (x, b')) :
    b.enable = true ∧
    ((b.txCur = .idle ∧ x = SOP ∧ ∃ c, b.haltFrame = some c ∧
        b' = { b with haltFrame := none, txCur := .halt, txWire := stuff c, txPos := 1 }) ∨
     (b.txCur = .idle ∧ x = SOP ∧ b.haltFrame = none ∧ ∃ c, b.hostFrame = some c ∧
        b' = { b with hostFrame := none, txCur := .host, txWire := stuff c, txPos := 1 }) ∨
     (b.txCur ≠ .idle ∧ b.txWire[b.txPos]? = some x ∧ b.txPos + 1 ≠ b.txWire.length ∧
        b' = { b with txPos := b.txPos + 1 }) ∨
     (b.txCur = .halt ∧ b.txWire[b.txPos]? = some x ∧ b.txPos + 1 = b.txWire.length ∧
        b' = { b with txCur := .idle, txWire := [], txPos := 0 }) ∨
     (b.txCur = .host ∧ b.txWire[b.txPos]? = some x ∧ b.txPos + 1 = b.txWire.length ∧
        b' = { b with
          stream := streamAfter b.curSclass b.stream
          curSclass := .none
          txCur := .idle
          txWire := []
          txPos := 0 })) := by
  have hlen : ∀ c : List Byte, 0 + 1 ≠ (stuff c).length := fun c => by rw [stuff_length]; omega
  have hhead : ∀ c : List Byte, (stuff c)[0]? = some SOP := fun c => rfl
  unfold txByte at h
  split at h
  · next he =>
    refine ⟨he, ?_⟩
    cases hcur : b.txCur with
    | idle =>
      cases hh : b.haltFrame with
      | some c =>
        simp only [startFrame, hcur, hh, hhead, afterByte, if_neg (hlen c), Option.some.injEq,
          Prod.mk.injEq] at h
        exact .inl ⟨rfl, h.1.symm, c, rfl, h.2.symm⟩
      | none =>
        cases ho : b.hostFrame with
        | some c =>
          simp only [startFrame, hcur, hh, ho, hhead, afterByte, if_neg (hlen c), Option.some.injEq,
            Prod.mk.injEq] at h
          exact .inr (.inl ⟨rfl, h.1.symm, rfl, c, rfl, h.2.symm⟩)
        | none => simp [startFrame, hcur, hh, ho] at h
    | host =>
      simp only [startFrame, hcur] at h
      cases hx : b.txWire[b.txPos]? with
      | none => simp [hx] at h
      | some y =>
        simp only [hx, Option.some.injEq, Prod.mk.injEq] at h
        obtain ⟨rfl, h⟩ := h
        unfold afterByte at h
        split at h
        · next hl =>
          exact .inr (.inr (.inr (.inr ⟨rfl, rfl, hl, by rw [← h]; simp [frameDone, hcur]⟩)))
        · next hl => exact .inr (.inr (.inl ⟨by simp, rfl, hl, by rw [← h, hcur]⟩))
    | halt =>
      simp only [startFrame, hcur] at h
      cases hx : b.txWire[b.txPos]? with
      | none => simp [hx] at h
      | some y =>
        simp only [hx, Option.some.injEq, Prod.mk.injEq] at h
        obtain ⟨rfl, h⟩ := h
        unfold afterByte at h
        split at h
        · next hl =>
          exact .inr (.inr (.inr (.inl ⟨rfl, rfl, hl, by rw [← h]; simp [frameDone, hcur]⟩)))
        · next hl => exact .inr (.inr (.inl ⟨by simp, rfl, hl, by rw [← h, hcur]⟩))
  · cases h

/-- A force-stop queues a halt, joins one already queued, or is dropped. -/
theorem forceStopOp_cases (b : Block) :
    (b.enable = true ∧ b.haltArmed = true ∧ forceStopOp b =
      { b with
        ev := { b.ev with abort := true }
        haltFrame := some (b.haltFrame.getD (haltContent b)) }) ∨
    (¬ (b.enable = true ∧ b.haltArmed = true) ∧
      forceStopOp b = { b with ev := { b.ev with abort := true, fstopDrop := true } }) := by
  unfold forceStopOp
  cases he : b.enable <;> cases ha : b.haltArmed <;> simp
  cases hf : b.haltFrame <;> simp [haltContent]

end Sys2Proof.Machine
end

