-- ==== Sys2Proof/Laws/PerInstr.lean ====
section
/-! SUPPORT. Statements made per instruction. RowMatch: the bits the encoder writes for a well-formed
instruction are bits of that instruction's row of spec/opcode_table.json, under the row's mask. -/

namespace Sys2Proof.Laws

/-- Encoded bits as one number, numbered as opcode_table.json numbers them (log entry 9). -/
def number : Fetched → Nat
  | .cmd w => w.toNat
  | .ctrl w => w.toNat
  | .status w => w.toNat
  | .wire b => b.toNat
  | .pair first second => first.toNat * 256 + second.toNat
  | .line e => e.toNat

/-- The row's "mask" and "match", copied from spec/opcode_table.json. -/
def tableRow : Instr → Nat × Nat
  | .nop => (0x0000000F, 0x00000000)
  | .send _ => (0x0000000F, 0x00000001)
  | .sendWait _ _ => (0x0000000F, 0x00000002)
  | .wait _ => (0x0000000F, 0x00000003)
  | .clearCounters => (0x0000000F, 0x00000004)
  | .reservedOp5 => (0x0000000F, 0x00000005)
  | .reservedOp6 _ => (0x0000000E, 0x00000006)
  | .reservedOp8 _ => (0x00000008, 0x00000008)
  | .sop => (0xFF, 0x8D)
  | .eop => (0xFF, 0xD8)
  | .esc => (0xFF, 0xAB)
  | .data _ => (0x00, 0x00)
  | .escSop => (0xFFFF, 0xAB05)
  | .escEop => (0xFFFF, 0xAB50)
  | .escEsc => (0xFFFF, 0xAB23)
  | .escOther _ => (0xFF00, 0xAB00)
  | .forceStop => (0x1, 0x1)
  | .softReset => (0x80000000, 0x80000000)
  | .ctrlWrite _ _ _ => (0x80000000, 0x00000000)
  | .statusW1c _ => (0x00000000, 0x00000000)

namespace RowMatch

/-- The encoded bits agree with the row under its mask. -/
def Statement (i : Instr) : Prop :=
  i.wf = true → number (encode i) &&& (tableRow i).1 = (tableRow i).2

theorem nop : Statement .nop := fun _ => by decide
theorem send (sclass : BitVec 3) : Statement (.send sclass) := fun _ => by
  revert sclass; decide
theorem sendWait (sclass : BitVec 3) (ecid : Byte) : Statement (.sendWait sclass ecid) := fun _ => by
  have h : ((cmdWord 0x2#4 sclass ecid) &&& 0xF#32) = 0x2#32 := by
    unfold cmdWord field; ext k hk; interval_cases k <;> simp
  simpa [number, encode, tableRow] using congrArg BitVec.toNat h
theorem wait (ecid : Byte) : Statement (.wait ecid) := fun _ => by
  have h : ((cmdWord 0x3#4 0 ecid) &&& 0xF#32) = 0x3#32 := by
    unfold cmdWord field; ext k hk; interval_cases k <;> simp
  simpa [number, encode, tableRow] using congrArg BitVec.toNat h
theorem clearCounters : Statement .clearCounters := fun _ => by decide
theorem reservedOp5 : Statement .reservedOp5 := fun _ => by decide
theorem reservedOp6 (lo : BitVec 1) : Statement (.reservedOp6 lo) := fun _ => by revert lo; decide
theorem reservedOp8 (lo : BitVec 3) : Statement (.reservedOp8 lo) := fun _ => by revert lo; decide
theorem sop : Statement .sop := fun _ => by decide
theorem eop : Statement .eop := fun _ => by decide
theorem esc : Statement .esc := fun _ => by decide
theorem data (b : Byte) : Statement (.data b) := fun _ => by simp [tableRow]
theorem escSop : Statement .escSop := fun _ => by decide
theorem escEop : Statement .escEop := fun _ => by decide
theorem escEsc : Statement .escEsc := fun _ => by decide
theorem escOther (s : Byte) : Statement (.escOther s) := fun _ => by
  have h : ∀ x : Byte, (ESC.toNat * 256 + x.toNat) &&& 0xFF00 = 0xAB00 := by decide
  exact h s
theorem forceStop : Statement .forceStop := fun _ => by decide
theorem softReset : Statement .softReset := fun _ => by decide
theorem ctrlWrite (en notifyApply debugTee : Bool) :
    Statement (.ctrlWrite en notifyApply debugTee) := fun _ => by
  revert en notifyApply debugTee; decide
theorem statusW1c (mask : BitVec 6) : Statement (.statusW1c mask) := fun _ => by simp [tableRow]

end RowMatch

end Sys2Proof.Laws
end

