-- ==== Sys2Proof/Laws/Step.lean ====
section
/-! SUPPORT. What one step can do, said once: the inversion lemmas of exec and step that every invariant
is derived from. -/

namespace Sys2Proof.Machine

/-- The block after an instruction that the host's words ask for. -/
def hostEffect : Instr → Block → Block
  | .send sclass, b => sendOp sclass (beginOp b)
  | .sendWait sclass ecid, b => sendWaitOp sclass ecid (beginOp b)
  | .wait ecid, b => waitOp ecid (beginOp b)
  | .clearCounters, b => clearCountersOp (beginOp b)
  | .reservedOp5, b => fail .badOp 0x5 (beginOp b)
  | .reservedOp6 lo, b => fail .badOp (reservedOp6Code lo) (beginOp b)
  | .reservedOp8 lo, b => fail .badOp (reservedOp8Code lo) (beginOp b)
  | .softReset, _ => Block.reset
  | .ctrlWrite en na dt, b => { b with enable := en, notifyApply := na, debugTee := dt }
  | .statusW1c mask, b => { b with ev := clearEvents mask b.ev }
  | _, b => b

/-- The instructions that a word written to CMD, CTRL or STATUS decodes to. -/
def Instr.isHost : Instr → Bool
  | .nop | .send _ | .sendWait _ _ | .wait _ | .clearCounters | .reservedOp5 | .reservedOp6 _
  | .reservedOp8 _ | .softReset | .ctrlWrite _ _ _ | .statusW1c _ => true
  | _ => false

theorem exec_host {i : Instr} (h : Instr.isHost i = true) (s : State) :
    exec i s = .next (s.withBlk (hostEffect i s.blk)) := by
  cases i <;> first | rfl | (cases h)

theorem decodeCmd_isHost (w : Word) : Instr.isHost (decodeCmd w) = true := by
  unfold decodeCmd; split <;> rfl

theorem decodeCmd_ne_softReset (w : Word) : decodeCmd w ≠ .softReset := by
  unfold decodeCmd; split <;> exact nofun

theorem decodeCtrl_isHost (w : Word) : Instr.isHost (decodeCtrl w) = true := by
  unfold decodeCtrl; split <;> rfl

/-- A byte that is no second byte of a pair runs as the RX agent's step on it. -/
theorem exec_decodeWire (x : Byte) (s : State) : exec (decodeWire x) s = .next (rxTake x s) := by
  unfold decodeWire
  split
  · next h => rw [h]; rfl
  split
  · next h => rw [h]; rfl
  split
  · next h => rw [h]; rfl
  · rfl

/-- The second byte of a pair runs as the RX agent's step on it, in the receive state ESC. -/
theorem exec_decodeEscaped (x : Byte) (s : State) (h : s.blk.rxState = .esc) :
    exec (decodeEscaped x) s = .next (rxTake x s) := by
  have hp : ∀ y, rxPair y s = rxTake y s := fun y => by simp [rxPair, h]
  unfold decodeEscaped
  split
  · next h => rw [h]; exact congrArg _ (hp _)
  split
  · next h => rw [h]; exact congrArg _ (hp _)
  split
  · next h => rw [h]; exact congrArg _ (hp _)
  · exact congrArg _ (hp _)

theorem rxTake_of_enable {s : State} (h : s.blk.enable = true) (x : Byte) :
    rxTake x s = (mirror .rx x s).withBlk (rxByte s.params x s.blk) := by
  simp [rxTake, h]

/-- Which registers stand at the offsets of CMD, CTRL and STATUS, and only there. -/
theorem regAt_special (p : Params) (off : Nat) :
    (regAt p off = .cmd → off = 0x00C) ∧ (regAt p off = .ctrl → off = 0x004) ∧
      (regAt p off = .status → off = 0x008) := by
  unfold regAt
  split
  · next r h =>
    have hm : (off, r) ∈ namedRegs := by
      have : ∀ (l : List (Nat × Reg)), l.lookup off = some r → (off, r) ∈ l := by
        intro l
        induction l with
        | nil => intro h; cases h
        | cons c l ih =>
          obtain ⟨k, v⟩ := c
          intro h
          rw [List.lookup_cons] at h
          split at h
          · next hk => cases h; have := eq_of_beq hk; subst this; exact List.mem_cons_self
          · exact List.mem_cons_of_mem _ (ih h)
      exact this _ h
    simp only [namedRegs, List.mem_cons, Prod.mk.injEq, List.not_mem_nil, or_false] at hm
    refine ⟨?_, ?_, ?_⟩ <;> rintro rfl <;> simpa using hm
  · refine ⟨?_, ?_, ?_⟩ <;> · intro h; split at h <;> [cases h; skip]; split at h <;> [cases h; skip]; split at h <;> cases h

/-- The state after the next event has been taken off the list. -/
def State.popped (s : State) (rest : List Event) : State :=
  { s with env := { s.env with events := rest } }

/-- The state after a HOST turn has been taken off the list and its statement off the program. -/
def State.hostPopped (s : State) (more : List HostStmt) (rest : List Event) : State :=
  { s with env := { s.env with events := rest, program := more } }

@[simp] theorem State.popped_params (s : State) (rest : List Event) :
    (s.popped rest).params = s.params := rfl
@[simp] theorem State.popped_blk (s : State) (rest : List Event) :
    (s.popped rest).blk = s.blk := rfl
@[simp] theorem State.popped_txReady (s : State) (rest : List Event) :
    (s.popped rest).env.txReady = s.env.txReady := rfl
@[simp] theorem State.popped_rxChan (s : State) (rest : List Event) :
    (s.popped rest).env.rxChan = s.env.rxChan := rfl
@[simp] theorem State.popped_txOut (s : State) (rest : List Event) :
    (s.popped rest).env.txOut = s.env.txOut := rfl
@[simp] theorem State.popped_tee (s : State) (rest : List Event) :
    (s.popped rest).env.tee = s.env.tee := rfl
@[simp] theorem State.popped_bus (s : State) (rest : List Event) :
    (s.popped rest).env.bus = s.env.bus := rfl
@[simp] theorem State.popped_fstopPin (s : State) (rest : List Event) :
    (s.popped rest).env.fstopPin = s.env.fstopPin := rfl
@[simp] theorem State.popped_program (s : State) (rest : List Event) :
    (s.popped rest).env.program = s.env.program := rfl
@[simp] theorem State.popped_events (s : State) (rest : List Event) :
    (s.popped rest).env.events = rest := rfl

@[simp] theorem State.hostPopped_params (s : State) (more : List HostStmt) (rest : List Event) :
    (s.hostPopped more rest).params = s.params := rfl
@[simp] theorem State.hostPopped_blk (s : State) (more : List HostStmt) (rest : List Event) :
    (s.hostPopped more rest).blk = s.blk := rfl
@[simp] theorem State.hostPopped_txReady (s : State) (more : List HostStmt) (rest : List Event) :
    (s.hostPopped more rest).env.txReady = s.env.txReady := rfl
@[simp] theorem State.hostPopped_rxChan (s : State) (more : List HostStmt) (rest : List Event) :
    (s.hostPopped more rest).env.rxChan = s.env.rxChan := rfl
@[simp] theorem State.hostPopped_txOut (s : State) (more : List HostStmt) (rest : List Event) :
    (s.hostPopped more rest).env.txOut = s.env.txOut := rfl
@[simp] theorem State.hostPopped_tee (s : State) (more : List HostStmt) (rest : List Event) :
    (s.hostPopped more rest).env.tee = s.env.tee := rfl
@[simp] theorem State.hostPopped_bus (s : State) (more : List HostStmt) (rest : List Event) :
    (s.hostPopped more rest).env.bus = s.env.bus := rfl
@[simp] theorem State.hostPopped_fstopPin (s : State) (more : List HostStmt) (rest : List Event) :
    (s.hostPopped more rest).env.fstopPin = s.env.fstopPin := rfl
@[simp] theorem State.hostPopped_program (s : State) (more : List HostStmt) (rest : List Event) :
    (s.hostPopped more rest).env.program = more := rfl
@[simp] theorem State.hostPopped_events (s : State) (more : List HostStmt) (rest : List Event) :
    (s.hostPopped more rest).env.events = rest := rfl

/-- A step carries out the next event, in the state with it taken off the list. -/
theorem step_event {s : State} {e : Event} {rest : List Event} (h : s.env.events = e :: rest) :
    step s = runTurn (eventTurn e (s.popped rest)) := by
  unfold step fetch
  rw [h]
  rfl

/-- With no event to come a step changes nothing. -/
theorem step_idle {s : State} (h : s.env.events = []) : step s = .next s := by
  unfold step fetch
  rw [h]
  rfl

/-- The statement's access, at this offset, is one the bus refuses (R83). -/
def HostStmt.refusedAt (st : HostStmt) (off : Nat) : Prop :=
  (∃ n, (st = .rd off n ∨ ∃ v, st = .wr off n v) ∧ (n ≠ 4 ∨ off % 4 ≠ 0)) ∨
    ((∃ m, st = .poll off m ∨ st = .pollz off m) ∧ off % 4 ≠ 0)

/-- The statement's access is at this offset. -/
def HostStmt.accesses (st : HostStmt) (off : Nat) : Prop :=
  (∃ n, st = .rd off n) ∨ (∃ n v, st = .wr off n v) ∨ ∃ m, st = .poll off m ∨ st = .pollz off m

/-- The HOST agent's turn is next, at this statement. -/
def State.hostAt (s : State) (st : HostStmt) (more : List HostStmt) (rest : List Event) : Prop :=
  s.env.events = .host :: rest ∧ s.env.program = st :: more

/-- The statement that polls until the masked value is zero, or until it is not (R130). -/
def pollStmt (zero : Bool) (off : Nat) (m : Word) : HostStmt := if zero then .pollz off m else .poll off m

/-- Everything a step that answers `next` can be. -/
inductive StepCase (s : State) : State → Prop where
  /-- No event is to come. -/
  | idle : s.env.events = [] → StepCase s s
  /-- A host read. -/
  | read (off : Nat) (more : List HostStmt) (rest : List Event) (v : Word) :
      s.hostAt (.rd off 4) more rest → off < 0x1000 → off % 4 = 0 →
      v = readReg s.params s.blk (regAt s.params off) →
      StepCase s (reply (.data off v) (s.hostPopped more rest)).settle
  /-- One read of a poll: it is over, or it stays. -/
  | poll (zero : Bool) (off : Nat) (m : Word) (st : HostStmt) (more : List HostStmt)
      (rest : List Event) (v : Word) :
      s.hostAt st more rest → st = pollStmt zero off m → off < 0x1000 →
      off % 4 = 0 → v = readReg s.params s.blk (regAt s.params off) →
      StepCase s (reply (.data off v)
        (s.hostPopped (if pollMet zero m v then more else st :: more) rest)).settle
  /-- A refused bus access. -/
  | busError (st : HostStmt) (off : Nat) (more : List HostStmt) (rest : List Event) :
      s.hostAt st more rest → off < 0x1000 → st.refusedAt off →
      StepCase s (reply (.busError (s.params.base + off)) (s.hostPopped more rest))
  /-- A write to a register that starts nothing. -/
  | write (off : Nat) (more : List HostStmt) (rest : List Event) (v : Word) :
      s.hostAt (.wr off 4 v) more rest → off < 0x1000 → off % 4 = 0 →
      regAt s.params off ≠ .cmd → regAt s.params off ≠ .ctrl → regAt s.params off ≠ .status →
      StepCase s ((reply (.written off) (s.hostPopped more rest)).withBlk
        (writeReg s.params v s.blk (regAt s.params off))).settle
  /-- A word written to CMD, CTRL or STATUS. -/
  | host (off : Nat) (more : List HostStmt) (rest : List Event) (v : Word) (i : Instr) :
      s.hostAt (.wr off 4 v) more rest → Instr.isHost i = true →
      (off = 0x00C ∧ i = decodeCmd v) ∨ (off = 0x004 ∧ i = decodeCtrl v) ∨
        (off = 0x008 ∧ i = decodeStatus v) →
      StepCase s ((reply (.written off) (s.hostPopped more rest)).withBlk (hostEffect i s.blk)).settle
  /-- The peer sends a byte. -/
  | peer (x : Byte) (rest : List Event) :
      s.env.events = .peer x :: rest →
      StepCase s { s.popped rest with
        env := { (s.popped rest).env with rxChan := s.env.rxChan ++ [x] } }
  /-- The transmit stream begins or ceases to accept bytes. -/
  | txReady (level : Bool) (rest : List Event) :
      s.env.events = .txReady level :: rest →
      StepCase s { s.popped rest with env := { (s.popped rest).env with txReady := level } }
  /-- The HOST, RX or TX agent has no step, or `force_stop` does not rise. -/
  | noStep (e : Event) (rest : List Event) (pin : Bool) :
      s.env.events = e :: rest →
      (e = .rx ∧ pin = s.env.fstopPin ∧ (s.blk.enable = false ∨ s.env.rxChan = [])) ∨
        (e = .tx ∧ pin = s.env.fstopPin ∧ (s.env.txReady = false ∨ txByte s.blk = none)) ∨
        (e = .host ∧ pin = s.env.fstopPin ∧ s.env.program = []) ∨
        (e = .forceStop pin ∧ ¬ (pin = true ∧ s.env.fstopPin = false)) →
      StepCase s { s.popped rest with env := { (s.popped rest).env with fstopPin := pin } }
  /-- The RX agent takes a byte. -/
  | rx (x : Byte) (chan : List Byte) (rest : List Event) :
      s.env.events = .rx :: rest → s.blk.enable = true → s.env.rxChan = x :: chan →
      StepCase s ((mirror .rx x { s.popped rest with
        env := { (s.popped rest).env with rxChan := chan } }).withBlk
          (rxByte s.params x s.blk)).settle
  /-- The TX agent emits a byte. -/
  | tx (x : Byte) (b : Block) (rest : List Event) :
      s.env.events = .tx :: rest → s.env.txReady = true → txByte s.blk = some (x, b) →
      StepCase s (emitTx x b (s.popped rest)).settle
  /-- A rising edge of `force_stop`. -/
  | fstop (rest : List Event) :
      s.env.events = .forceStop true :: rest → s.env.fstopPin = false →
      StepCase s ({ s.popped rest with
        env := { (s.popped rest).env with fstopPin := true } }.withBlk (forceStopOp s.blk)).settle
  /-- An assertion of `rst`. -/
  | rst (rest : List Event) :
      s.env.events = .rst :: rest → StepCase s (resetBlock (s.popped rest))

theorem decode_rxFetched (st : RxState) (x : Byte) :
    decode (rxFetched st x) = .ok (match st with
      | .esc => decodeEscaped x
      | .hunt => decodeWire x
      | .body => decodeWire x) := by
  cases st <;> simp [rxFetched, decode]

/-- Running the fetched byte is the RX agent's step on it and the completion check. -/
theorem run_rxFetched {s : State} (h : s.blk.enable = true) (x : Byte) :
    runTurn (.present (rxFetched s.blk.rxState x) s) =
    .next ((mirror .rx x s).withBlk (rxByte s.params x s.blk)).settle := by
  simp only [runTurn]
  rw [decode_rxFetched, ← rxTake_of_enable h x]
  cases hs : s.blk.rxState with
  | esc => exact congrArg settleOutcome (exec_decodeEscaped x s hs)
  | hunt => exact congrArg settleOutcome (exec_decodeWire x s)
  | body => exact congrArg settleOutcome (exec_decodeWire x s)

theorem accessOk_iff (off n : Nat) : accessOk off n = true ↔ n = 4 ∧ off % 4 = 0 := by
  simp [accessOk]

/-- What the HOST agent's statement st does in the state s with it taken off the program. -/
theorem step_host {s : State} {st : HostStmt} {more : List HostStmt} {rest : List Event}
    (h : s.hostAt st more rest) :
    step s = runTurn (hostStmt st (s.hostPopped more rest)) := by
  have hp : ∀ s : State, s.env.program = st :: more →
      hostTurn s = hostStmt st { s with env := { s.env with program := more } } := by
    intro s hs; unfold hostTurn; rw [hs]
  have hf : fetch s = hostStmt st (s.hostPopped more rest) := by
    unfold fetch
    rw [h.1]
    exact hp (s.popped rest) h.2
  unfold step
  rw [hf]

/-- A read of a register of the window. -/
theorem step_read {s : State} {off : Nat} {more : List HostStmt} {rest : List Event}
    (h : s.hostAt (.rd off 4) more rest) (ho : off < 0x1000) (ha : off % 4 = 0) :
    step s = .next (reply (.data off (readReg s.params s.blk (regAt s.params off)))
      (s.hostPopped more rest)).settle := by
  have hk : accessOk off 4 = true := (accessOk_iff _ _).2 ⟨rfl, ha⟩
  rw [step_host h]
  simp only [hostStmt, hostRead]
  rw [if_neg (by omega), if_pos hk]
  rfl

/-- A write to a register of the window: an instruction at CMD, CTRL and STATUS, and otherwise the register
stores its fields. -/
theorem step_write {s : State} {off : Nat} {v : Word} {more : List HostStmt} {rest : List Event}
    (h : s.hostAt (.wr off 4 v) more rest) (ho : off < 0x1000) (ha : off % 4 = 0) :
    step s = runTurn
      (let s1 := reply (.written off) (s.hostPopped more rest)
       match regAt s.params off with
       | .cmd => .present (.cmd v) s1
       | .ctrl => .present (.ctrl v) s1
       | .status => .present (.status v) s1
       | r => .done (.next (s1.withBlk (writeReg s.params v s.blk r)).settle)) := by
  have hk : accessOk off 4 = true := (accessOk_iff _ _).2 ⟨rfl, ha⟩
  rw [step_host h]
  simp only [hostStmt, hostWrite]
  rw [if_neg (by omega), if_pos hk]
  rfl

/-- One read of a poll of a register of the window. -/
theorem step_poll {s : State} {zero : Bool} {off : Nat} {m : Word} {more : List HostStmt}
    {rest : List Event} (h : s.hostAt (pollStmt zero off m) more rest) (ho : off < 0x1000)
    (ha : off % 4 = 0) :
    step s = .next (reply (.data off (readReg s.params s.blk (regAt s.params off)))
      (s.hostPopped (if pollMet zero m (readReg s.params s.blk (regAt s.params off)) then more
        else pollStmt zero off m :: more) rest)).settle := by
  have hk : accessOk off 4 = true := (accessOk_iff _ _).2 ⟨rfl, ha⟩
  have hp : hostStmt (pollStmt zero off m) (s.hostPopped more rest)
      = hostPoll zero off m (pollStmt zero off m) (s.hostPopped more rest) := by
    cases zero <;> rfl
  rw [step_host h, hp]
  unfold hostPoll
  rw [if_neg (by omega), if_pos hk]
  rfl

/-- The outcomes of a HOST turn at a statement. -/
theorem step_host_cases {s : State} {st : HostStmt} {more : List HostStmt} {rest : List Event}
    (h : s.hostAt st more rest) :
    (∃ t, step s = .next t ∧ StepCase s t) ∨
    (∃ off, step s = .fault (.outsideWindow off) ∧ 0x1000 ≤ off ∧ st.accesses off) := by
  rw [step_host h]
  have poll : ∀ (zero : Bool) (off : Nat) (m : Word),
      st = pollStmt zero off m →
      hostStmt st (s.hostPopped more rest) = hostPoll zero off m st (s.hostPopped more rest) →
      st.accesses off → ((off % 4 ≠ 0) → st.refusedAt off) →
      (∃ t, runTurn (hostStmt st (s.hostPopped more rest)) = .next t ∧ StepCase s t) ∨
      (∃ o, runTurn (hostStmt st (s.hostPopped more rest)) = .fault (.outsideWindow o) ∧
        0x1000 ≤ o ∧ st.accesses o) := by
    intro zero off m hst he hacc href
    rw [he]
    unfold hostPoll
    by_cases ho : 0x1000 ≤ off
    · rw [if_pos ho]; exact .inr ⟨off, rfl, ho, hacc⟩
    · rw [if_neg ho]
      by_cases ha : accessOk off 4 = true
      · rw [if_pos ha]
        exact .inl ⟨_, rfl, .poll zero off m st more rest _ h hst (by omega)
          ((accessOk_iff _ _).1 ha).2 rfl⟩
      · rw [if_neg ha]
        refine .inl ⟨_, rfl, .busError st off more rest h (by omega) (href ?_)⟩
        rw [accessOk_iff] at ha; omega
  cases st with
  | poll off m =>
    exact poll false off m rfl rfl (.inr (.inr ⟨m, .inl rfl⟩)) fun hm => .inr ⟨⟨m, .inl rfl⟩, hm⟩
  | pollz off m =>
    exact poll true off m rfl rfl (.inr (.inr ⟨m, .inr rfl⟩)) fun hm => .inr ⟨⟨m, .inr rfl⟩, hm⟩
  | rd off n =>
    simp only [hostStmt, hostRead]
    by_cases ho : 0x1000 ≤ off
    · rw [if_pos ho]; exact .inr ⟨off, rfl, ho, .inl ⟨n, rfl⟩⟩
    · rw [if_neg ho]
      by_cases ha : accessOk off n = true
      · rw [if_pos ha]
        obtain ⟨rfl, hm⟩ := (accessOk_iff _ _).1 ha
        exact .inl ⟨_, rfl, .read off more rest _ h (by omega) hm rfl⟩
      · rw [if_neg ha]
        rw [accessOk_iff] at ha
        exact .inl ⟨_, rfl, .busError _ off more rest h (by omega)
          (.inl ⟨n, .inl rfl, by omega⟩)⟩
  | wr off n v =>
    simp only [hostStmt, hostWrite]
    by_cases ho : 0x1000 ≤ off
    · rw [if_pos ho]; exact .inr ⟨off, rfl, ho, .inr (.inl ⟨n, v, rfl⟩)⟩
    · rw [if_neg ho]
      by_cases ha : accessOk off n = true
      · rw [if_pos ha]
        obtain ⟨rfl, hm⟩ := (accessOk_iff _ _).1 ha
        refine .inl ?_
        have hreg : regAt (s.hostPopped more rest).params off = regAt s.params off := rfl
        rw [hreg]
        cases hr : regAt s.params off with
        | cmd =>
          have hi := decodeCmd_isHost v
          refine ⟨_, ?_, .host off more rest v _ h hi (.inl ⟨(regAt_special _ _).1 hr, rfl⟩)⟩
          simp only [runTurn, decode, exec_host hi]; rfl
        | ctrl =>
          have hi := decodeCtrl_isHost v
          refine ⟨_, ?_, .host off more rest v _ h hi
            (.inr (.inl ⟨(regAt_special _ _).2.1 hr, rfl⟩))⟩
          simp only [runTurn, decode, exec_host hi]; rfl
        | status =>
          exact ⟨_, rfl, .host off more rest v (decodeStatus v) h rfl
            (.inr (.inr ⟨(regAt_special _ _).2.2 hr, rfl⟩))⟩
        | _ =>
          refine ⟨_, rfl, ?_⟩
          rw [← hr]
          exact .write off more rest v h (by omega) hm (by rw [hr]; nofun) (by rw [hr]; nofun)
            (by rw [hr]; nofun)
      · rw [if_neg ha]
        rw [accessOk_iff] at ha
        exact .inl ⟨_, rfl, .busError _ off more rest h (by omega)
          (.inl ⟨n, .inr ⟨v, rfl⟩, by omega⟩)⟩

/-- The inversion lemma of step, with the two ways it stops: outside the window, and never by refusal. -/
theorem step_cases (s : State) :
    (∃ t, step s = .next t ∧ StepCase s t) ∨
    (∃ off, step s = .fault (.outsideWindow off) ∧ 0x1000 ≤ off ∧ ∃ st more rest,
      s.hostAt st more rest ∧ st.accesses off) := by
  cases he : s.env.events with
  | nil => exact .inl ⟨s, by unfold step fetch; rw [he]; rfl, .idle he⟩
  | cons e rest =>
    cases e with
    | host =>
      cases hp : s.env.program with
      | nil =>
        have hd : hostTurn (s.popped rest) = .done (.next (s.popped rest)) := by
          have : (s.popped rest).env.program = [] := hp
          unfold hostTurn; rw [this]
        refine .inl ⟨s.popped rest, ?_,
          .noStep _ rest _ he (.inr (.inr (.inl ⟨rfl, rfl, hp⟩)))⟩
        unfold step fetch
        rw [he]
        simp only [eventTurn]
        change runTurn (hostTurn (s.popped rest)) = _
        rw [hd]
        rfl
      | cons st more =>
        rcases step_host_cases ⟨he, hp⟩ with h | ⟨off, h, ho, ha⟩
        · exact .inl h
        · exact .inr ⟨off, h, ho, st, more, rest, ⟨he, hp⟩, ha⟩
    | peer x => exact .inl ⟨_, by unfold step fetch; rw [he]; rfl, .peer x rest he⟩
    | txReady level => exact .inl ⟨_, by unfold step fetch; rw [he]; rfl, .txReady level rest he⟩
    | rst => exact .inl ⟨_, by unfold step fetch; rw [he]; rfl, .rst rest he⟩
    | rx =>
      by_cases hen : s.blk.enable = true
      · cases hc : s.env.rxChan with
        | nil =>
          have hd : rxTurn (s.popped rest) = .done (.next (s.popped rest)) := by
            have h1 : (s.popped rest).env.rxChan = [] := hc
            have h2 : (s.popped rest).blk.enable = true := hen
            unfold rxTurn; rw [if_pos h2, h1]
          refine .inl ⟨s.popped rest, ?_, .noStep _ rest _ he (.inl ⟨rfl, rfl, .inr hc⟩)⟩
          unfold step fetch
          rw [he]
          change runTurn (rxTurn (s.popped rest)) = _
          rw [hd]
          rfl
        | cons x chan =>
          refine .inl ⟨_, ?_, .rx x chan rest he hen hc⟩
          unfold step fetch; rw [he]; simp only [eventTurn, rxTurn]
          rw [if_pos hen, hc]
          exact run_rxFetched (s := { s.popped rest with
            env := { (s.popped rest).env with rxChan := chan } }) hen x
      · refine .inl ⟨s.popped rest, ?_,
          .noStep _ rest _ he (.inl ⟨rfl, rfl, .inl (by simpa using hen)⟩)⟩
        unfold step fetch; rw [he]; simp only [eventTurn, rxTurn]
        rw [if_neg hen]; rfl
    | tx =>
      by_cases hr : s.env.txReady = true
      · cases ht : txByte s.blk with
        | none =>
          refine .inl ⟨s.popped rest, ?_,
            .noStep _ rest _ he (.inr (.inl ⟨rfl, rfl, .inr ht⟩))⟩
          unfold step fetch; rw [he]; simp only [eventTurn, txTurn]
          rw [if_pos hr, ht]; rfl
        | some c =>
          obtain ⟨x, b⟩ := c
          refine .inl ⟨_, ?_, .tx x b rest he hr ht⟩
          unfold step fetch; rw [he]; simp only [eventTurn, txTurn]
          rw [if_pos hr, ht]; rfl
      · refine .inl ⟨s.popped rest, ?_,
          .noStep _ rest _ he (.inr (.inl ⟨rfl, rfl, .inl (by simpa using hr)⟩))⟩
        unfold step fetch; rw [he]; simp only [eventTurn, txTurn]
        rw [if_neg hr]; rfl
    | forceStop level =>
      by_cases hl : level = true ∧ s.env.fstopPin = false
      · obtain ⟨rfl, hp⟩ := hl
        refine .inl ⟨_, ?_, .fstop rest he hp⟩
        unfold step fetch; rw [he]; simp only [eventTurn, forceStopTurn, hp]; rfl
      · refine .inl ⟨_, ?_, .noStep _ rest level he (.inr (.inr (.inr ⟨rfl, hl⟩)))⟩
        have : (level && !s.env.fstopPin) = false := by simpa using hl
        unfold step fetch; rw [he]; simp only [eventTurn, forceStopTurn]
        rw [this]; rfl

theorem stepCase_of_next {s t : State} (h : step s = .next t) : StepCase s t := by
  rcases step_cases s with ⟨t', h', hc⟩ | ⟨off, h', -⟩
  · rw [h] at h'; cases h'; exact hc
  · rw [h] at h'; cases h'

end Sys2Proof.Machine
end

