-- ==== Sys2Proof/Tests/Slice0.lean ====
section
/-! SUPPORT. The model's own tests: ill-formed terms that WellFormed refuses, every constructor's
encoding written out from the spec, one-step checks taken from spec/95_test_vectors.md, and for every
obligation with hypotheses a state and operands that meet them. -/

namespace Sys2Proof.Tests

open Sys2Proof Sys2Proof.Machine Sys2Proof.Statements

/-! ### WellFormed refuses -/

theorem test_data_sop_illFormed : (Instr.data 0x8D).wf = false := by decide
theorem test_data_eop_illFormed : (Instr.data 0xD8).wf = false := by decide
theorem test_data_esc_illFormed : (Instr.data 0xAB).wf = false := by decide
theorem test_escOther_05_illFormed : (Instr.escOther 0x05).wf = false := by decide
theorem test_escOther_50_illFormed : (Instr.escOther 0x50).wf = false := by decide
theorem test_escOther_23_illFormed : (Instr.escOther 0x23).wf = false := by decide

/-! ### Every constructor's decoding, from bits written out by hand -/

/-- R122: CMD = OP | SCLASS<<4 | ECID<<8; the words of V6, V7 and R131. -/
theorem test_decode_cmd :
    decode (.cmd 0x00000000#32) = .ok .nop ∧
    decode (.cmd 0xFFFFFFF0#32) = .ok .nop ∧
    decode (.cmd 0x00000031#32) = .ok (.send 3) ∧
    decode (.cmd 0xFFFFFFD1#32) = .ok (.send 5) ∧
    decode (.cmd 0x00001002#32) = .ok (.sendWait 0 0x10) ∧
    decode (.cmd 0x00008F22#32) = .ok (.sendWait 2 0x8F) ∧
    decode (.cmd 0x00001003#32) = .ok (.wait 0x10) ∧
    decode (.cmd 0x00000004#32) = .ok .clearCounters ∧
    decode (.cmd 0x00000005#32) = .ok .reservedOp5 ∧
    decode (.cmd 0x00000006#32) = .ok (.reservedOp6 0) ∧
    decode (.cmd 0x00000007#32) = .ok (.reservedOp6 1) ∧
    decode (.cmd 0x0000000D#32) = .ok (.reservedOp8 5) := by decide

/-- R100: the three special bytes, and their neighbours, which are data. -/
theorem test_decode_wire :
    decode (.wire 0x8D#8) = .ok .sop ∧ decode (.wire 0xD8#8) = .ok .eop ∧
    decode (.wire 0xAB#8) = .ok .esc ∧ decode (.wire 0x8C#8) = .ok (.data 0x8C) ∧
    decode (.wire 0x88#8) = .ok (.data 0x88) ∧ decode (.wire 0x00#8) = .ok (.data 0x00) := by decide

/-- R101: AB 05, AB 50, AB 23; R102: any other second byte; no other first byte is a pair. -/
theorem test_decode_pair :
    decode (.pair 0xAB#8 0x05#8) = .ok .escSop ∧ decode (.pair 0xAB#8 0x50#8) = .ok .escEop ∧
    decode (.pair 0xAB#8 0x23#8) = .ok .escEsc ∧
    decode (.pair 0xAB#8 0x41#8) = .ok (.escOther 0x41) ∧
    decode (.pair 0xAB#8 0xD8#8) = .ok (.escOther 0xD8) ∧
    decode (.pair 0xAA#8 0x05#8) = .error (.notAnEscapePair 0xAA) := by decide

/-- R270: a rising edge only. -/
theorem test_decode_line :
    decode (.line 1#1) = .ok .forceStop ∧ decode (.line 0#1) = .error .noRisingEdge := by decide

/-- R158, R291 and R159: CTRL and STATUS words. -/
theorem test_decode_ctrl_status :
    decode (.ctrl 0x80000007#32) = .ok .softReset ∧
    decode (.ctrl 0x00000005#32) = .ok (.ctrlWrite true false true) ∧
    decode (.ctrl 0x7FFFFFFA#32) = .ok (.ctrlWrite false true false) ∧
    decode (.status 0x00000800#32) = .ok (.statusW1c 0x08) ∧
    decode (.status 0xFFFFC0FF#32) = .ok (.statusW1c 0x00) ∧
    decode (.status 0x00002100#32) = .ok (.statusW1c 0x21) := by decide

/-- The rows of opcode_table.json, numbered as it numbers them (log entries 8 and 9). -/
theorem test_decodeTableWord :
    decodeTableWord 8 0x0 = some .nop ∧ decodeTableWord 8 0x1 = some (.send 0) ∧
    decodeTableWord 32 0x1002 = some (.sendWait 0 0x10) ∧ decodeTableWord 8 0x3 = some (.wait 0) ∧
    decodeTableWord 8 0x4 = some .clearCounters ∧ decodeTableWord 8 0x5 = some .reservedOp5 ∧
    decodeTableWord 8 0x7 = some (.reservedOp6 1) ∧ decodeTableWord 8 0x8 = some (.reservedOp8 0) ∧
    decodeTableWord 8 0x8D = some .sop ∧ decodeTableWord 8 0xD8 = some .eop ∧
    decodeTableWord 8 0xAB = some .esc ∧ decodeTableWord 8 0x41 = some (.data 0x41) ∧
    decodeTableWord 16 0xAB05 = some .escSop ∧ decodeTableWord 16 0xAB50 = some .escEop ∧
    decodeTableWord 16 0xAB23 = some .escEsc ∧ decodeTableWord 16 0xAB41 = some (.escOther 0x41) ∧
    decodeTableWord 1 0x1 = some .forceStop ∧ decodeTableWord 32 0x80000000 = some .softReset ∧
    decodeTableWord 32 0x0 = some (.ctrlWrite false false false) ∧
    decodeTableWord 16 0x2100 = some (.statusW1c 0x21) := by decide

/-! ### States for the tests -/

/-- The answer is a next state of which p holds. -/
def nextIs (o : Host.Outcome State Fault Refusal) (p : State → Bool) : Bool :=
  match o with
  | .next t => p t
  | .fault _ => false
  | .refused _ => false

/-- A next state found by running. -/
theorem exists_of_nextIs {o : Host.Outcome State Fault Refusal} {p : State → Bool}
    (h : nextIs o p = true) : ∃ t, o = .next t ∧ p t = true := by
  cases o with
  | next t => exact ⟨t, rfl, h⟩
  | fault _ => cases h
  | refused _ => cases h

/-- The parameters of spec/95_test_vectors.md. -/
def p64 : Params := { rxMax := 64, txMax := 32, base := 0x1000 }

/-- Reset with these parameters. -/
def s0 : State := State.resetWith p64

/-- Reset, then ENABLE = 1. -/
def on : State := { s0 with blk := { s0.blk with enable := true } }

/-- The state s with these events to come. -/
def upto (s : State) (es : List Event) : State := { s with env := { s.env with events := es } }

/-- The state s with these events to come and these bytes waiting. -/
def fed (s : State) (es : List Event) (bytes : List Byte) : State :=
  { s with env := { s.env with events := es, rxChan := bytes } }

/-- The state s in which the host's program is next, at this statement alone. -/
def asking (s : State) (st : HostStmt) : State :=
  { s with env := { s.env with events := [.host], program := [st] } }

/-- The receive agent in this state with this content. -/
def receiving (s : State) (st : RxState) (buf : List Byte) : State :=
  { s with blk := { s.blk with rxState := st, rxBuf := buf } }

/-- STATUS as the host reads it. -/
def status (s : State) : Word := readReg s.params s.blk .status

/-- OP_RESULT as the host reads it. -/
def opResult (s : State) : Word := readReg s.params s.blk .opResult

/-- `load_tx 02,13,10,07` (V6). -/
def loaded : State := { on with blk := { on.blk with txHdr := 0x07101302 } }

/-- `wait 0x10` pending (V6). -/
def awaiting : State :=
  { on with blk := { on.blk with curOp := .wait, waiting := true, expectCid := 0x10 } }

/-- An active stream, idle. -/
def streaming : State := { on with blk := { on.blk with stream := .active } }

/-- A SEND admitted, its two content bytes not on the wire yet. -/
def queued : State :=
  { on with blk := { on.blk with curOp := .send, hostFrame := some [0x00, 0xFF] } }

/-- A SEND whose host frame has one byte left, EOP. -/
def lastByte : State :=
  { on with
    blk := { on.blk with
      curOp := .send
      curSclass := .configure
      txCur := .host
      txWire := [0x8D, 0xFF, 0xD8]
      txPos := 2 } }

/-! ### One step of each instruction -/

/-- V6: NOP changes nothing. -/
theorem test_nop : nextIs (exec .nop awaiting) (fun t => t == awaiting) = true := by decide

/-- V6: SEND with SCLASS 5 right after reset is BAD_CLASS, before NOT_READY. -/
theorem test_send_badClass : nextIs (exec (.send 5) s0)
    (fun t => opResult t == 0x00000104#32 && status t == 0x00000200#32) = true := by decide

/-- V1, V6: SEND of `00,13,10,00 : 5A`. -/
theorem test_send_admitted : nextIs
    (exec (.send 0) { on with
      blk := { on.blk with txHdr := 0x00101300, txPlen := 1, txParam := [(0, 0x5A)] } })
    (fun t => opResult t == 0x00000100#32 && status t == 0x00000001#32
      && t.blk.hostFrame == some [0x00, 0x13, 0x10, 0x00, 0x5A, 0x82]) = true := by decide

/-- V6: SEND_WAIT admitted. -/
theorem test_sendWait_admitted : nextIs (exec (.sendWait 0 0x10) loaded)
    (fun t => opResult t == 0x00000200#32 && status t == 0x00000003#32 && t.blk.expectCid == 0x10
      && t.blk.hostFrame == some [0x02, 0x13, 0x10, 0x07, 0xD3]) = true := by decide

/-- V6: WAIT right after reset is NOT_READY. -/
theorem test_wait_notReady : nextIs (exec (.wait 0x10) s0)
    (fun t => opResult t == 0x00000301#32 && status t == 0x00000200#32) = true := by decide

/-- P4: WAIT, admitted. -/
theorem test_wait_admitted : nextIs (exec (.wait 0x10) on)
    (fun t => status t == 0x00000002#32 && opResult t == 0x00000300#32) = true := by decide

/-- V6: CLEAR_COUNTERS does not check ENABLE. -/
theorem test_clearCounters : nextIs
    (exec .clearCounters { s0 with blk := { s0.blk with cnt := { Counters.zero with skip := 4 } } })
    (fun t => opResult t == 0x00000400#32 && status t == 0x00000100#32 && t.blk.cnt == Counters.zero)
    = true := by decide

/-- V6: CLEAR_COUNTERS is BUSY while a wait is pending, and the wait stays pending. -/
theorem test_clearCounters_busy : nextIs (exec .clearCounters awaiting)
    (fun t => opResult t == 0x00000402#32 && status t == 0x00000202#32) = true := by decide

/-- R157: OP 5 is BAD_OP. -/
theorem test_reservedOp5 : nextIs (exec .reservedOp5 on)
    (fun t => opResult t == 0x00000503#32 && status t == 0x00000200#32) = true := by decide

/-- V6: OP 7 is BAD_OP. -/
theorem test_reservedOp6 : nextIs (exec (.reservedOp6 1) s0)
    (fun t => opResult t == 0x00000703#32 && status t == 0x00000200#32) = true := by decide

/-- R157: OP 0xF is BAD_OP. -/
theorem test_reservedOp8 : nextIs (exec (.reservedOp8 7) s0)
    (fun t => opResult t == 0x00000F03#32) = true := by decide

/-- V4: SOP starts a frame in HUNT. -/
theorem test_sop_hunt : nextIs (exec .sop on)
    (fun t => t.blk.rxState == .body && t.blk.cnt.skip == 0) = true := by decide

/-- V4: SOP inside a frame is content. -/
theorem test_sop_body : nextIs (exec .sop (receiving on .body [0x00]))
    (fun t => t.blk.rxBuf == [0x00, 0x8D] && t.blk.rxState == .body) = true := by decide

/-- V4: the valid frame 00 13 10 00 5A 82 with no wait pending is counted and dropped. -/
theorem test_eop_valid : nextIs
    (exec .eop (receiving on .body [0x00, 0x13, 0x10, 0x00, 0x5A, 0x82]))
    (fun t => t.blk.cnt.ok == 1 && t.blk.cnt.drop == 1 && t.blk.rxState == .hunt) = true := by decide

/-- V5: the reply to `wait 0x10`, captured. -/
theorem test_eop_capture : nextIs
    (exec .eop (receiving awaiting .body [0x01, 0x13, 0x10, 0x07, 0x00, 0x5A, 0x7A]))
    (fun t => readReg t.params t.blk .rxHdr == 0x07101301#32
      && readReg t.params t.blk .rxAux == 0x04000000#32 && readReg t.params t.blk .rxPlen == 1
      && readReg t.params t.blk (.rxPayload 0) == 0x5A && readReg t.params t.blk (.rxPayload 1) == 0
      && t.blk.waiting == false && t.blk.replyValid) = true := by decide

/-- R193: ESC inside a frame is remembered. -/
theorem test_esc_body : nextIs (exec .esc (receiving on .body [0x00]))
    (fun t => t.blk.rxState == .esc && t.blk.rxBuf == [0x00]) = true := by decide

/-- V6: CNT_SKIP wraps; R191: a data byte in HUNT is skipped. -/
theorem test_data_hunt : nextIs
    (exec (.data 0x41) { on with
      blk := { on.blk with cnt := { on.blk.cnt with skip := 0xFFFFFFFF } } })
    (fun t => t.blk.cnt.skip == 0 && t.blk.rxState == .hunt) = true := by decide

/-- V4: with P_RXMAX = 8 the ninth content byte overflows. -/
theorem test_data_overflow : nextIs
    (exec (.data 0xD2)
      { receiving on .body [0x00, 0x13, 0x10, 0x00, 0x01, 0x02, 0x03, 0x04] with
        params := { p64 with rxMax := 8 } })
    (fun t => t.blk.cnt.ovf == 1 && t.blk.rxState == .hunt && t.blk.rxBuf == []
      && status t == 0x00001000#32) = true := by decide

/-- T2: AB 05 is content 8D. -/
theorem test_escSop : nextIs (exec .escSop (receiving on .esc []))
    (fun t => t.blk.rxBuf == [0x8D] && t.blk.rxState == .body) = true := by decide

/-- T2: AB 50 is content D8. -/
theorem test_escEop : nextIs (exec .escEop (receiving on .esc []))
    (fun t => t.blk.rxBuf == [0xD8] && t.blk.rxState == .body) = true := by decide

/-- T2: AB 23 is content AB. -/
theorem test_escEsc : nextIs (exec .escEsc (receiving on .esc []))
    (fun t => t.blk.rxBuf == [0xAB] && t.blk.rxState == .body) = true := by decide

/-- V4: AB D8 gives content 50 and ends no frame. -/
theorem test_escOther : nextIs (exec (.escOther 0xD8) (receiving on .esc [0x00]))
    (fun t => t.blk.rxBuf == [0x00, 0x50] && t.blk.rxState == .body) = true := by decide

/-- V8: with ARMED = 0 a pulse sets ABORT and FSTOP_DROP. -/
theorem test_forceStop_drop : nextIs (exec .forceStop on)
    (fun t => status t == 0x00002800#32 && t.blk.haltFrame == none) = true := by decide

/-- V8: armed, `load_halt 00,16,01,00 : 00 00`, a pulse queues the halt frame. -/
theorem test_forceStop_armed : nextIs
    (exec .forceStop { on with
      blk := { on.blk with haltHdr := 0x00011600, haltPlen := 2, haltArmed := true } })
    (fun t => status t == 0x00000804#32
      && t.blk.haltFrame == some [0x00, 0x16, 0x01, 0x00, 0x00, 0x00, 0xE8]) = true := by decide

/-- V9: SOFT_RESET. -/
theorem test_softReset : nextIs (exec .softReset lastByte)
    (fun t => t.blk == Block.reset && t.params == p64) = true := by decide

/-- P1: CTRL = 3. -/
theorem test_ctrlWrite : nextIs (exec (.ctrlWrite true true false) s0)
    (fun t => readReg t.params t.blk .ctrl == 0x00000003#32) = true := by decide

/-- V8: after `wr STATUS, 0x800` the interrupt is gone. -/
theorem test_statusW1c : nextIs
    (exec (.statusW1c 0x08) { on with
      blk := { on.blk with
        ev := { EventBits.none with abort := true, done := true }
        irqEn := { EventBits.none with abort := true } } })
    (fun t => status t == 0x00000100#32 && t.blk.irq == false) = true := by decide

/-! ### Operations -/

/-- V3: RX_HDR and RX_AUX of the FLAGS 31 reply with ERR 05 and no payload. -/
theorem test_capture_flags31 :
    let f := parse [0x31, 0x01, 0x02, 0x13, 0x10, 0x07, 0x05]
    captureHdr f = 0x07101331#32 ∧ captureAux f = 0x7050201#27 ∧ f.payload = [] := by decide

/-- V5: the notification N9. -/
theorem test_position_N9 : nextIs
    (exec .eop (receiving
      { on with blk := { on.blk with notifyApply := true, notifySel := 0x00218 } } .body
      [0x00, 0x18, 0x02, 0x00, 0x01, 0x80, 0x00, 0x00, 0x00, 0x7F, 0xFF, 0xFF, 0xFF, 0xE8]))
    (fun t => readReg t.params t.blk .posX == 0x80000000#32
      && readReg t.params t.blk .posY == 0x7FFFFFFF#32
      && readReg t.params t.blk .posInfo == 0x00010701#32 && status t == 0x00000400#32)
    = true := by decide

/-- T7, V2: stuffing the three special bytes. -/
theorem test_stuff :
    stuff [0x8D, 0xD8, 0xAB, 0x00] = [0x8D, 0xAB, 0x05, 0xAB, 0x50, 0xAB, 0x23, 0x00, 0xD8] := by decide

/-- V3: the content with FLAGS 31. -/
theorem test_build_flags31 :
    build 0x07101331 0x000201 1 [(0, 0x5A)] = [0x31, 0x01, 0x02, 0x13, 0x10, 0x07, 0x00, 0x5A, 0x47] := by
  decide

/-- V6: `wr HALT_CFG, 0x8000000F` reads back 0x80000008. -/
theorem test_warl_haltCfg : nextIs (step (asking s0 (.wr 0x038 4 0x8000000F)))
    (fun t => readReg t.params t.blk .haltCfg == 0x80000008#32 && t.env.bus == [.written 0x038])
    = true := by decide

/-- V6: PARAMS and a misaligned read. -/
theorem test_params_busError :
    nextIs (step (asking s0 (.rd 0x078 4))) (fun t => t.env.bus == [.data 0x078 0x00200040])
      = true ∧
    nextIs (step (asking s0 (.rd 0x002 4))) (fun t => t.env.bus == [.busError 0x1002])
      = true := by decide

/-- R130: a poll of STATUS for 0x300 reads STATUS and stays the next statement while a wait is pending; a
pollz for the same mask is over (STATUS = 2, as in P4). -/
theorem test_poll :
    nextIs (step (asking awaiting (.poll 0x008 0x300)))
      (fun t => t.env.bus == [.data 0x008 2] && t.env.program == [.poll 0x008 0x300]) = true ∧
    nextIs (step (asking awaiting (.pollz 0x008 0x300)))
      (fun t => t.env.bus == [.data 0x008 2] && t.env.program == []) = true := by decide

/-- R175: a transmit stream that does not accept a byte holds the frame. -/
theorem test_tx_notReady : nextIs
    (step { upto lastByte [.tx] with env := { lastByte.env with events := [.tx], txReady := false } })
    (fun t => t.blk == lastByte.blk && t.env.txOut == []) = true := by decide

/-- V7: the CONFIGURE transition happens with EOP, and DONE in the same step (R153). -/
theorem test_tx_eop : nextIs (step (upto lastByte [.tx]))
    (fun t => status t == 0x00000110#32 && t.env.txOut == [0xD8]) = true := by decide

/-- V4: with DEBUG_TEE = 1 the received byte is presented. -/
theorem test_tee : nextIs
    (step (fed { on with blk := { on.blk with debugTee := true } } [.rx] [0x00]))
    (fun t => t.env.tee == [(.rx, 0x00)]) = true := by decide

/-- A row placed by withFetchWord is the very next instruction (log entry 8). -/
theorem test_withFetchWord :
    nextIs (step (s0.withFetchWord 8 0x8D)) (fun t => t.blk.rxState == .body) = true ∧
    nextIs (step (s0.withFetchWord 16 0xAB05)) (fun t => t.blk.rxBuf == [0x8D]) = true ∧
    nextIs (step (s0.withFetchWord 1 0x1)) (fun t => t.blk.ev.abort) = true ∧
    nextIs (step (s0.withFetchWord 32 0x80000000)) (fun t => t.blk == Block.reset) = true := by decide

/-- The same right after reset, whatever the open parameters of Config are. -/
theorem test_withFetchWord_reset :
    nextIs (step (State.reset.withFetchWord 8 0x41)) (fun t => t.blk.cnt.skip == 1) = true ∧
    nextIs (step (State.reset.withFetchWord 16 0xAB05)) (fun t => t.blk.rxBuf == [0x8D]) = true ∧
    nextIs (step (State.reset.withFetchWord 8 0x1)) (fun t => opResult t == 0x101) = true ∧
    nextIs (step (State.reset.withFetchWord 16 0x2100)) (fun t => t.blk == Block.reset) = true := by
  decide

/-! ### Witnesses: a state and operands that meet an obligation's hypotheses together -/

theorem witness_DecodeInvertsEncode : (Instr.data 0x8C).wf = true ∧ (Instr.escOther 0x51).wf = true := by
  decide

theorem hostNext_asking (s : State) (st : HostStmt) : hostNext st [] [] (asking s st) := ⟨rfl, rfl⟩

theorem witness_StepRunsTheDecodedInstruction :
    (hostNext (.wr 0x00C 4 0x01) [] [] (asking s0 (.wr 0x00C 4 0x01)) ∧
      decode (.cmd 0x01) = .ok (.send 0)) ∧
    (hostNext (.wr 0x004 4 0x01) [] [] (asking s0 (.wr 0x004 4 0x01)) ∧
      decode (.ctrl 0x01) = .ok (.ctrlWrite true false false)) ∧
    (hostNext (.wr 0x008 4 0x100) [] [] (asking s0 (.wr 0x008 4 0x100)) ∧
      decode (.status 0x100) = .ok (.statusW1c 1)) ∧
    (let s := fed (receiving on .esc []) [.rx] [0x05]
     s.env.events = [.rx] ∧ s.blk.enable = true ∧ s.env.rxChan = [0x05] ∧
      decode (if s.blk.rxState = .esc then .pair ESC 0x05 else .wire 0x05) = .ok .escSop) ∧
    ((upto s0 [.forceStop true]).env.events = [.forceStop true] ∧ s0.env.fstopPin = false) := by
  unfold hostNext; decide

theorem witness_StepStopsOnlyOutsideTheWindow :
    step (asking s0 (.rd 0x1000 4)) = .fault (.outsideWindow 0x1000) ∧
    step (asking s0 (.wr 0x1000 2 0)) = .fault (.outsideWindow 0x1000) ∧
    step (asking s0 (.poll 0x1000 1)) = .fault (.outsideWindow 0x1000) := ⟨rfl, rfl, rfl⟩

theorem witness_BusErrorChangesNoRegister :
    (misaccess (.rd 0xFFF 4) 0xFFF ∧ hostNext (.rd 0xFFF 4) [] [] (asking s0 (.rd 0xFFF 4))) ∧
    (misaccess (.wr 0x000 2 7) 0x000 ∧ hostNext (.wr 0x000 2 7) [] [] (asking s0 (.wr 0x000 2 7))) ∧
    (misaccess (.poll 0x00A 1) 0x00A ∧
      hostNext (.poll 0x00A 1) [] [] (asking s0 (.poll 0x00A 1))) ∧
    0xFFF < 0x1000 ∧ 0x000 < 0x1000 ∧ 0x00A < 0x1000 :=
  ⟨⟨.inl ⟨4, .inl rfl, by decide⟩, hostNext_asking _ _⟩,
    ⟨.inl ⟨2, .inr ⟨7, rfl⟩, by decide⟩, hostNext_asking _ _⟩,
    ⟨.inr ⟨⟨1, .inl rfl⟩, by decide⟩, hostNext_asking _ _⟩, by decide⟩

theorem settled_s0 : settled s0.blk := fun h => absurd rfl h
theorem settled_awaiting : settled awaiting.blk := fun _ => .inr (.inr rfl)
theorem settled_on : settled on.blk := fun h => absurd rfl h

theorem witness_ReadHasNoSideEffect :
    alignedOffset 0x000 ∧ alignedOffset 0xFFC ∧ ∀ off m,
      settled (asking s0 (.rd off 4)).blk ∧ hostNext (.rd off 4) [] [] (asking s0 (.rd off 4)) ∧
      hostNext (.poll off m) [] [] (asking s0 (.poll off m)) ∧
      hostNext (.pollz off m) [] [] (asking s0 (.pollz off m)) :=
  ⟨⟨rfl, by decide⟩, ⟨rfl, by decide⟩, fun _ _ =>
    ⟨settled_s0, hostNext_asking _ _, hostNext_asking _ _, hostNext_asking _ _⟩⟩

theorem witness_AgentsPauseWhileDisabled :
    s0.blk.enable = false ∧ (upto s0 [.tx]).env.events = [.tx] ∧
      (fed s0 [.rx] [0x8D]).env.events = [.rx] ∧
      ({ s0.env with events := [.tx], txReady := false } : Env).txReady = false := by decide

/-- Both ends of every window. -/
theorem witness_RegistersReadTheirFields :
    p64.legal = true ∧ (0 < p64.txMax ∧ 31 < p64.txMax) ∧ (0 < p64.rxMax ∧ 63 < p64.rxMax) ∧ 7 < 8 := by
  decide

/-- Every clause of reservedOffset at both ends of its range. -/
theorem witness_ReservedOffsetsAreInert : p64.legal = true ∧ s0.params = p64 ∧
    (∀ off ∈ [0x01C, 0x05C, 0x07C, 0x3FC, 0x500, 0x7FC, 0x880, 0xBFC, 0xC20, 0xFFC],
      alignedOffset off ∧ reservedOffset p64 off) ∧
    ∀ off, settled (asking s0 (.rd off 4)).blk ∧ hostNext (.rd off 4) [] [] (asking s0 (.rd off 4)) ∧
      hostNext (.wr off 4 1) [] [] (asking s0 (.wr off 4 1)) := by
  refine ⟨by decide, rfl, fun off h => ⟨?_, ?_⟩, fun off =>
    ⟨settled_s0, hostNext_asking _ _, hostNext_asking _ _⟩⟩
  · revert off; unfold alignedOffset; decide
  · revert off; unfold reservedOffset; decide

theorem witness_ReadOnlyRegistersIgnoreWrites : p64.legal = true ∧
    ∀ off ∈ [0x000, 0x010, 0x048, 0x050, 0x058, 0x060, 0x074, 0x078, 0x400, 0x4FC],
      alignedOffset off ∧ readOnlyOffset p64 off ∧ settled (asking s0 (.wr off 4 1)).blk ∧
        hostNext (.wr off 4 1) [] [] (asking s0 (.wr off 4 1)) := by
  refine ⟨by decide, fun off h => ⟨?_, ?_, settled_s0, hostNext_asking _ _⟩⟩
  · revert off; unfold alignedOffset; decide
  · revert off; unfold readOnlyOffset; decide

/-- The hypotheses of every clause; the windows at both ends of their ranges. -/
theorem witness_RegisterWritesStoreTheirFields : p64.legal = true ∧
    (∀ off v, (asking s0 (.wr off 4 v)).MemInv ∧ settled (asking s0 (.wr off 4 v)).blk ∧
      hostNext (.wr off 4 v) [] [] (asking s0 (.wr off 4 v))) ∧
    (0 < p64.txMax ∧ 31 < p64.txMax ∧ 0x800 + 4 * 31 = 0x87C) ∧ 0xC00 + 4 * 7 = 0xC1C :=
  ⟨by decide, fun _ _ => ⟨⟨rfl, rfl⟩, settled_s0, hostNext_asking _ _⟩, by decide, by decide⟩

theorem witness_ResetLeavesTheResetValues :
    p64.legal = true ∧ alignedOffset 0x000 ∧ alignedOffset 0x078 ∧ alignedOffset 0xFFC := by
  unfold alignedOffset; decide

theorem witness_NopDoesNothing : (0xFFFFFFF0#32).toNat % 16 = 0 := by decide

theorem witness_ReservedOpIsRefused :
    5 ≤ (0x5#32).toNat % 16 ∧ 5 ≤ (0xFFFFFFFF#32).toNat % 16 := by decide

theorem isSend (sclass : BitVec 3) : isSendForm (.send sclass) sclass 1 := .inl ⟨rfl, rfl⟩
theorem isSendWait (sclass : BitVec 3) (ecid : Byte) : isSendForm (.sendWait sclass ecid) sclass 2 :=
  .inr ⟨ecid, rfl, rfl⟩

theorem witness_FirstFailedCheckDecides :
    isSendForm (.send 4) 4 1 ∧ isSendForm (.sendWait 3 0x10) 3 2 ∧ 4 ≤ (4#3).toNat ∧ (3#3).toNat < 4 ∧
    s0.blk.enable = false ∧ (awaiting.blk.enable = true ∧ awaiting.blk.curOp ≠ .none) ∧
    (on.blk.enable = true ∧ on.blk.curOp = .none ∧ guardCode (3#3).toNat on.blk.stream ≠ .ok) := by
  refine ⟨isSend 4, isSendWait 3 0x10, ?_⟩; decide

theorem witness_StreamGuardTable :
    isSendForm (.send 0) 0 1 ∧ (0#3).toNat < 4 ∧ isSendForm (.sendWait 3 0xFF) 3 2 ∧
      (3#3).toNat < 4 ∧ streaming.blk.enable = true ∧ streaming.blk.curOp = .none := by
  refine ⟨isSend 0, by decide, isSendWait 3 0xFF, ?_⟩; decide

/-- Of SendAdmitted, SendWaitAdmitted and WaitAdmitted. -/
theorem witness_Admitted :
    (0#3).toNat < 4 ∧ (3#3).toNat < 4 ∧ streaming.blk.enable = true ∧ streaming.blk.curOp = .none ∧
      guardCode (3#3).toNat streaming.blk.stream = .ok ∧ guardCode (0#3).toNat on.blk.stream = .ok ∧
      on.blk.enable = true ∧ on.blk.curOp = .none := by decide

theorem witness_ClearCountersOutcome : (0xFFFFFFF4#32).toNat % 16 = 4 := by decide

theorem witness_CtrlWriteOutcome :
    (0x80000001#32).getLsbD 31 = true ∧ (0x7FFFFFFF#32).getLsbD 31 = false := by decide

theorem witness_SoftAndHardResetAgree :
    (upto lastByte [.rst]).env.events = [.rst] ∧
    hostNext (.wr 0x004 4 0x80000000) [] [] (asking lastByte (.wr 0x004 4 0x80000000)) ∧
    (0x80000000#32).getLsbD 31 = true := ⟨rfl, hostNext_asking _ _, rfl⟩

theorem witness_HeaderLayout :
    (0x07101331#32).toNat =
      (0x31#8).toNat + (0x13#8).toNat * 2 ^ 8 + (0x10#8).toNat * 2 ^ 16 + (0x07#8).toNat * 2 ^ 24 ∧
    (0x050201#24).toNat = (0x01#8).toNat + (0x02#8).toNat * 2 ^ 8 + (0x05#8).toNat * 2 ^ 16 := by decide

/-- T9: the content 00 13 10 00 5A 82 sums to FF. -/
theorem witness_SingleBitFlipIsDetected :
    0 < 8 ∧ 7 < 8 ∧ sum8 ([0x00, 0x13] ++ [0x10] ++ [0x00, 0x5A, 0x82]) = 0xFF#8 := by decide

theorem witness_StuffProperties :
    (0x8D#8 ∈ [0x8D#8]) ∧ ([0xAB, 0x05, 0xFF] : List Byte)[0]? = some 0xAB#8 ∧
      stuff [0x8D] = stuff [0x8D] := by decide

theorem witness_HuntSkipsUntilSop :
    wireOperand .sop = some 0x8D ∧ wireOperand (.data 0x41) = some 0x41 ∧ on.blk.enable = true ∧
      on.blk.rxState = .hunt := by decide

theorem witness_BodyAccumulates :
    wireOperand .esc = some 0xAB ∧ wireOperand .sop = some 0x8D ∧ wireOperand (.data 0x00) = some 0x00 ∧
    (0xAB#8 ≠ 0xD8#8 ∧ 0x8D#8 ≠ 0xD8#8 ∧ 0x00#8 ≠ 0xD8#8) ∧
    (receiving on .body (List.replicate 63 0)).blk.rxBuf.length ≠ p64.rxMax ∧
    (receiving on .body (List.replicate 64 0)).blk.rxBuf.length = p64.rxMax ∧
    (receiving on .body (List.replicate 64 0)).blk.enable = true ∧
    (receiving on .body (List.replicate 64 0)).blk.rxState = .body := by decide

theorem witness_EscapedByteIsContent :
    pairOperand .escSop = some 0x05 ∧ pairOperand (.escOther 0xD8) = some 0xD8 ∧
    wireOperand .eop = some 0xD8 ∧ (receiving on .esc []).blk.enable = true ∧
    (receiving on .esc []).blk.rxState = .esc := by decide

theorem witness_ChecksumFailureDiscards :
    let s := receiving awaiting .body [0x00, 0x13, 0x10, 0x00, 0x5A, 0x83]
    s.blk.enable = true ∧ s.blk.rxState = .body ∧
      s.blk.rxBuf = [0x00, 0x13, 0x10, 0x00, 0x5A] ++ [0x83] ∧
      0x83#8 ≠ ~~~ sum8 [0x00, 0x13, 0x10, 0x00, 0x5A] := by decide

/-- The empty frame, the content FF, and a body one byte shorter than its header (V4). -/
theorem witness_ShortFrameDiscards :
    on.blk.enable = true ∧ (receiving on .body []).blk.rxBuf = [] ∧
    ([0xFF] : List Byte) = [] ++ [~~~ sum8 []] ∧
    ([0x00, 0x13, 0x10, 0xDC] : List Byte) = [0x00, 0x13, 0x10] ++ [~~~ sum8 [0x00, 0x13, 0x10]] ∧
    ([0x00, 0x13, 0x10] : List Byte).length < hlen 0x00 ∧
    (receiving on .body []).blk.rxState = .body := by decide

/-- A valid frame's body: the notification N9 with the awaited CID. -/
def bodyN9 : List Byte :=
  [0x00, 0x18, 0x02, 0x00, 0x01, 0x80, 0x00, 0x00, 0x00, 0x7F, 0xFF, 0xFF, 0xFF]

/-- The receive agent at the EOP of N9; a wait for CID 02 or not, notifications applied or not. -/
def atN9 (waits applies : Bool) : State :=
  fed
    { on with
      blk := { on.blk with
        notifyApply := applies
        notifySel := 0x00218
        waiting := waits
        curOp := if waits then .wait else .none
        expectCid := 0x02
        rxState := .body
        rxBuf := bodyN9 ++ [0xE8] } } [.rx] [0xD8]

theorem valid_bodyN9 (w a : Bool) : validContent (atN9 w a).blk.rxBuf bodyN9 :=
  ⟨by revert w a; decide, by decide, by decide⟩

theorem witness_ValidFrameIsCorrelated :
    (∀ w a, (atN9 w a).blk.enable = true ∧ (atN9 w a).blk.rxState = .body ∧
      validContent (atN9 w a).blk.rxBuf bodyN9) ∧
    (awaited (parse bodyN9) (atN9 true true).blk ∧ notification (parse bodyN9) (atN9 true true).blk) ∧
    (awaited (parse bodyN9) (atN9 true false).blk ∧
      ¬ notification (parse bodyN9) (atN9 true false).blk) ∧
    (¬ awaited (parse bodyN9) (atN9 false true).blk ∧
      notification (parse bodyN9) (atN9 false true).blk) ∧
    (¬ awaited (parse bodyN9) (atN9 false false).blk ∧
      ¬ notification (parse bodyN9) (atN9 false false).blk) := by
  refine ⟨fun w a => ⟨rfl, rfl, valid_bodyN9 w a⟩, ?_⟩
  unfold awaited notification; decide

theorem witness_StuffedContentIsProcessedOnce :
    let c : List Byte := [0x8D, 0xD8, 0xAB, 0x00]
    let s := fed on (List.replicate (stuff c).length .rx ++ [.tx]) (stuff c ++ [0x41])
    s.blk.enable = true ∧ s.blk.rxState = .hunt ∧ c.length ≤ s.params.rxMax ∧ settled s.blk ∧
      s.env.rxChan = stuff c ++ [0x41] ∧
      s.env.events = List.replicate (stuff c).length .rx ++ [.tx] :=
  ⟨rfl, rfl, by decide, settled_on, rfl, rfl⟩

theorem witness_GarbageIsSkippedAndCounted :
    let g : List Byte := [0x00, 0xD8, 0xAB]
    let s := fed on (List.replicate g.length .rx ++ [.tx]) (g ++ [0x8D])
    s.blk.enable = true ∧ s.blk.rxState = .hunt ∧ 0x8D#8 ∉ g ∧ settled s.blk ∧
      s.env.rxChan = g ++ [0x8D] ∧ s.env.events = List.replicate g.length .rx ++ [.tx] :=
  ⟨rfl, rfl, by decide, settled_on, rfl, rfl⟩

/-- A host frame and a halt frame both queued. -/
def bothQueued : State := { queued with blk := { queued.blk with haltFrame := some [0xFF] } }

theorem witness_FrameStartTakesHaltFirst :
    ((upto bothQueued [.tx]).env.events = [.tx] ∧ bothQueued.env.txReady = true ∧
      bothQueued.blk.enable = true ∧ bothQueued.blk.txCur = .idle ∧ settled bothQueued.blk ∧
      bothQueued.blk.haltFrame = some [0xFF]) ∧
    (queued.env.txReady = true ∧ queued.blk.enable = true ∧ queued.blk.txCur = .idle ∧
      settled queued.blk ∧ queued.blk.haltFrame = none ∧ queued.blk.hostFrame = some [0x00, 0xFF]) ∧
    (awaiting.env.txReady = true ∧ awaiting.blk.enable = true ∧ awaiting.blk.txCur = .idle ∧
      settled awaiting.blk ∧ awaiting.blk.haltFrame = none ∧ awaiting.blk.hostFrame = none) :=
  ⟨⟨rfl, rfl, rfl, rfl, fun _ => .inl nofun, rfl⟩, ⟨rfl, rfl, rfl, fun _ => .inl nofun, rfl, rfl⟩,
    ⟨rfl, rfl, rfl, settled_awaiting, rfl, rfl⟩⟩

/-- The frame of lastByte with two bytes left. -/
def midFrame : State := { lastByte with blk := { lastByte.blk with txPos := 1 } }

theorem witness_FrameInProgressEmitsNextByte :
    (upto midFrame [.tx]).env.events = [.tx] ∧ midFrame.env.txReady = true ∧
      midFrame.blk.enable = true ∧ midFrame.blk.txCur ≠ .idle ∧
      midFrame.blk.txWire[midFrame.blk.txPos]? = some 0xFF ∧
      midFrame.blk.txPos + 1 < midFrame.blk.txWire.length ∧ settled midFrame.blk :=
  ⟨rfl, rfl, rfl, by decide, by decide, by decide, fun _ => .inr (.inl rfl)⟩

/-- A SEND_WAIT whose host frame has one byte left, EOP. -/
def lastByteWaiting : State :=
  { lastByte with blk := { lastByte.blk with curOp := .sendWait, waiting := true } }

/-- A halt frame whose last byte is next. -/
def lastHalt : State :=
  { on with blk := { on.blk with txCur := .halt, txWire := [0x8D, 0xFF, 0xD8], txPos := 2 } }

theorem witness_FrameEnd :
    (∀ s ∈ [lastByte, lastByteWaiting, lastHalt], (upto s [.tx]).env.events = [.tx] ∧
      s.env.txReady = true ∧ s.blk.enable = true ∧ s.blk.txWire[s.blk.txPos]? = some 0xD8 ∧
      s.blk.txPos + 1 = s.blk.txWire.length) ∧
    (lastByte.blk.txCur = .host ∧ lastByte.blk.hostFrame = none ∧ lastByte.blk.curOp ≠ .none ∧
      lastByte.blk.waiting = false) ∧
    (lastByteWaiting.blk.txCur = .host ∧ lastByteWaiting.blk.hostFrame = none ∧
      lastByteWaiting.blk.curOp ≠ .none ∧ lastByteWaiting.blk.waiting = true) ∧
    (lastHalt.blk.txCur = .halt ∧ settled lastHalt.blk) :=
  ⟨by decide, by decide, by decide, rfl, fun h => absurd rfl h⟩

theorem witness_OnlyRisingEdgeForcesStop :
    ((upto on [.forceStop true]).env.events = [.forceStop true] ∧ on.env.fstopPin = false) ∧
    ((upto on [.forceStop false]).env.events = [.forceStop false] ∧
      ¬ (false = true ∧ on.env.fstopPin = false)) := by decide

theorem witness_SendCompletesInItsWireLength :
    let s := upto queued (List.replicate (stuff [0x00, 0xFF]).length .tx ++ [.rx])
    s.env.txReady = true ∧ s.blk.enable = true ∧ s.blk.txCur = .idle ∧ s.blk.haltFrame = none ∧
      s.blk.hostFrame = some [0x00, 0xFF] ∧ s.blk.curOp = .send ∧ s.blk.waiting = false ∧
      s.env.events = List.replicate (stuff [0x00, 0xFF]).length .tx ++ [.rx] := by decide

/-- A host frame in progress, and a halt frame in progress with a fresh one queued. -/
theorem witness_HaltFollowsTheFrameInProgress :
    ∀ s0 ∈ [midFrame, { lastHalt with blk := { lastHalt.blk with txPos := 1 } }],
    let s := upto { s0 with blk := { s0.blk with haltFrame := some [0xFF] } }
      (List.replicate 3 .tx ++ [.rx])
    s.env.txReady = true ∧ s.blk.enable = true ∧ s.blk.txCur ≠ .idle ∧
      s.blk.txPos < s.blk.txWire.length ∧ s.blk.haltFrame = some [0xFF] ∧
      s.env.events = List.replicate (s.blk.txWire.length - s.blk.txPos + 1) .tx ++ [.rx] := by decide

theorem witness_SecondStopIsRefused :
    let wire := stuff (build streaming.blk.txHdr streaming.blk.txAux streaming.blk.txPlen.toNat
      streaming.blk.txParam)
    let s : State := { streaming with
      env := { streaming.env with
        program := [.wr 0x00C 4 0x31, .wr 0x00C 4 0x31]
        events := Event.host :: (List.replicate wire.length Event.tx ++ [Event.host]) } }
    s.env.txReady = true ∧ s.blk.enable = true ∧ s.blk.stream = .active ∧ s.blk.curOp = .none ∧
      s.blk.waiting = false ∧ s.blk.txCur = .idle ∧ s.blk.hostFrame = none ∧
      s.blk.haltFrame = none ∧ s.env.program = .wr 0x00C 4 0x31 :: .wr 0x00C 4 0x31 :: [] ∧
      s.env.events = Event.host :: (List.replicate wire.length Event.tx ++ (Event.host :: [])) := by decide

/-- Of OnlyReplyOrResetEndsAWait, CaptureRegistersChangeOnlyAtCapture, PositionChangesOnlyByNotification
and OperationEndsWithDone: N9 answers a wait. -/
theorem witness_StepOfN9 : ∃ t, step (atN9 true true) = .next t ∧
    (((atN9 true true).blk.waiting && !t.blk.waiting) &&
      ((t.blk.rxHdr != (atN9 true true).blk.rxHdr) && (t.blk.posX != (atN9 true true).blk.posX)) &&
      ((atN9 true true).blk.curOp != .none && t.blk.curOp == .none)) = true :=
  exists_of_nextIs (p := fun t => ((atN9 true true).blk.waiting && !t.blk.waiting) &&
      ((t.blk.rxHdr != (atN9 true true).blk.rxHdr) && (t.blk.posX != (atN9 true true).blk.posX)) &&
      ((atN9 true true).blk.curOp != .none && t.blk.curOp == .none)) (by decide)

theorem witness_StreamChangesOnlyAtFrameEnd : ∃ t, step (upto lastByte [.tx]) = .next t ∧
    (t.blk.stream != (upto lastByte [.tx]).blk.stream) = true :=
  exists_of_nextIs (p := fun t => t.blk.stream != (upto lastByte [.tx]).blk.stream) (by decide)

theorem witness_TeeMirrorsEveryWireByte : ∃ t, step (upto lastByte [.tx]) = .next t ∧
    ((upto lastByte [.tx]).env.events == [.tx]) = true :=
  exists_of_nextIs (p := fun _ => (upto lastByte [.tx]).env.events == [.tx]) (by decide)

/-- A state with an operation in flight, a wait pending, a frame queued, a frame being received and a
parameter stored. -/
def full : State :=
  upto
    { on with
      blk := { on.blk with
        curOp := .sendWait
        curSclass := .start
        waiting := true
        hostFrame := some [0x00, 0xFF]
        txCur := .halt
        txWire := [0x8D, 0xD8]
        txPos := 1
        rxState := .body
        rxBuf := [0x01]
        txPlen := 32
        txParam := [(31, 0x5A)]
        haltParam := [(7, 0x01)]
        rxPlen := 2
        rxPayload := [0x01, 0x02] } } [.tx]

/-- Of the five StepKeeps obligations: every invariant holds in `full`, and it steps. -/
theorem witness_StepKeeps :
    full.OpInv ∧ full.RegInv ∧ full.MemInv ∧ full.FlightInv ∧ full.WireInv ∧
      ∃ t, step full = .next t ∧ (t.blk.txCur == .idle) = true := by
  refine ⟨⟨?_, ?_, ?_, ?_, ?_, ?_⟩, ⟨?_, ?_, ?_, ?_, ?_, ?_⟩, ⟨?_, ?_⟩, ⟨?_, ?_⟩, ?_,
    exists_of_nextIs (p := fun t => t.blk.txCur == .idle) (by decide)⟩
  all_goals first | decide | (unfold State.WireInv; decide)

/-! ### The end of a run -/

/-- `complete` on a wait that nothing will answer (P4 with no reply). -/
def unanswered : State := asking awaiting (.poll 0x008 0x300)

/-- `complete` on a SEND whose frame ENABLE = 0 holds (R176, R318). -/
def held : State :=
  asking { queued with blk := { queued.blk with enable := false } } (.poll 0x008 0x300)

theorem quiescent_unanswered : unanswered.quiescent := ⟨rfl, rfl, rfl⟩
theorem quiescent_held : held.quiescent := ⟨rfl, rfl, rfl⟩

theorem flight_unanswered : unanswered.FlightInv := ⟨fun _ => .inr rfl, fun _ => rfl⟩
theorem flight_held : held.FlightInv := ⟨fun _ => .inl rfl, fun _ => rfl⟩

/-- An ended run, and three that hang: at a poll with a wait unanswered, at a poll with a frame held, and
after the last statement with a wait unanswered. -/
theorem witness_StepKeepsEndAndHang :
    s0.ended ∧ (unanswered.FlightInv ∧ unanswered.hung) ∧ (held.FlightInv ∧ held.hung) ∧
      (awaiting.FlightInv ∧ awaiting.hung) :=
  ⟨⟨rfl, rfl, rfl, rfl, rfl⟩, ⟨flight_unanswered, .inl (by decide), quiescent_unanswered⟩,
    ⟨flight_held, .inl (by decide), quiescent_held⟩, ⟨fun _ => .inr rfl, fun _ => rfl⟩,
    .inr ⟨rfl, rfl⟩, rfl, rfl, rfl⟩

theorem witness_UnansweredCompleteHangs :
    (s0.quiescent ∧ s0.env.program = [] ∧ s0.blk.waiting = false) ∧
    (awaiting.quiescent ∧ awaiting.env.program = [] ∧ awaiting.blk.waiting = true) ∧
    (unanswered.quiescent ∧ unanswered.FlightInv ∧ unanswered.blk.curOp ≠ .none ∧
      unanswered.blk.ev.opFail = false ∧ unanswered.env.program = [.poll 0x008 0x300]) ∧
    (held.quiescent ∧ held.FlightInv ∧ held.blk.curOp ≠ .none ∧ held.blk.ev.opFail = false ∧
      held.env.program = [.poll 0x008 0x300]) :=
  ⟨⟨⟨rfl, rfl, rfl⟩, rfl, rfl⟩, ⟨⟨rfl, rfl, rfl⟩, rfl, rfl⟩, ⟨quiescent_unanswered, flight_unanswered, by decide, rfl, rfl⟩,
    quiescent_held, flight_held, by decide, rfl, rfl⟩

/-- With the reply on its way the run neither ends nor hangs: the RX agent has a step (R318). -/
theorem test_notHung : ¬ (fed unanswered [.rx] [0x8D]).quiescent := nofun

end Sys2Proof.Tests
end

section
/-! SUPPORT. What one step makes of the block, with the environment left out; which fields each operation
can change; and, from the two, the packaged induction for predicates of the block. -/

open Sys2Proof.Statements

namespace Sys2Proof.Machine

/-- What a step from s can make of the block. -/
inductive BlockStep (s : State) : Block → Prop where
  /-- A turn without a step, an event of the environment, or a refused bus access. -/
  | same : BlockStep s s.blk
  /-- A host read, of `rd` or of a poll. -/
  | checked : BlockStep s (completionCheck s.blk)
  /-- A host write to a register that starts nothing. -/
  | write (v : Word) (r : Reg) : BlockStep s (completionCheck (writeReg s.params v s.blk r))
  /-- An instruction of the host other than the soft reset. -/
  | host (i : Instr) : i ≠ .softReset → BlockStep s (completionCheck (hostEffect i s.blk))
  /-- The RX agent takes a byte. -/
  | rx (x : Byte) (chan : List Byte) (rest : List Event) :
      s.env.events = .rx :: rest → s.blk.enable = true → s.env.rxChan = x :: chan →
      BlockStep s (completionCheck (rxByte s.params x s.blk))
  /-- The TX agent emits a byte. -/
  | tx (x : Byte) (b : Block) : txByte s.blk = some (x, b) → BlockStep s (completionCheck b)
  /-- A rising edge of `force_stop`. -/
  | fstop : BlockStep s (completionCheck (forceStopOp s.blk))
  /-- `rst`, or the soft reset. -/
  | reset : resets s → BlockStep s Block.reset

theorem completionCheck_reset : completionCheck Block.reset = Block.reset :=
  completionCheck_of_unfinished fun h => absurd rfl h

/-- Of the host's instructions only a CTRL word with bit 31 is the soft reset (R158, R291). -/
theorem bit31_of_decodeCtrl_softReset {v : Word} (h : decodeCtrl v = .softReset) :
    v.getLsbD 31 = true := by
  unfold decodeCtrl at h
  split at h
  · assumption
  · cases h

/-- The host asks for the soft reset only by a reset in the sense of the statements (R291). -/
theorem resets_of_softReset {s : State} {off : Nat} {v : Word} {more : List HostStmt}
    {rest : List Event} (h : s.hostAt (.wr off 4 v) more rest)
    (hi : (off = 0x00C ∧ Instr.softReset = decodeCmd v) ∨
      (off = 0x004 ∧ Instr.softReset = decodeCtrl v) ∨
      (off = 0x008 ∧ Instr.softReset = decodeStatus v)) : resets s := by
  rcases hi with ⟨-, hd⟩ | ⟨rfl, hd⟩ | ⟨-, hd⟩
  · exact absurd hd.symm (decodeCmd_ne_softReset v)
  · exact .inr ⟨v, more, rest, h, bit31_of_decodeCtrl_softReset hd.symm⟩
  · cases hd

/-- The inversion lemma of step for the block and the parameters. -/
theorem blockStep_of_next {s t : State} (h : step s = .next t) :
    t.params = s.params ∧ BlockStep s t.blk := by
  cases stepCase_of_next h with
  | idle => exact ⟨rfl, .same⟩
  | read => exact ⟨rfl, .checked⟩
  | poll => exact ⟨rfl, .checked⟩
  | busError => exact ⟨rfl, .same⟩
  | write off more rest v => exact ⟨rfl, .write v _⟩
  | host off more rest v i hat hi hd =>
    refine ⟨rfl, ?_⟩
    by_cases hr : i = .softReset
    · subst hr
      rw [settle_blk, withBlk_blk, show hostEffect .softReset s.blk = Block.reset from rfl,
        completionCheck_reset]
      exact .reset (resets_of_softReset hat hd)
    · exact .host i hr
  | peer => exact ⟨rfl, .same⟩
  | txReady => exact ⟨rfl, .same⟩
  | noStep => exact ⟨rfl, .same⟩
  | rx x chan rest he hen hc =>
    exact ⟨by simp, .rx x chan rest he hen hc⟩
  | tx x b rest he hr ht => exact ⟨by simp [emitTx], .tx x b ht⟩
  | fstop => exact ⟨rfl, .fstop⟩
  | rst rest he => exact ⟨rfl, .reset (.inl ⟨rest, he⟩)⟩

/-- No step changes the parameters (R57, R293). -/
theorem step_params {s t : State} (h : step s = .next t) : t.params = s.params :=
  (blockStep_of_next h).1

/-- A predicate of the block that reset has, and that the completion check and each operation of an agent
keep, is kept by every step. -/
theorem step_keeps {I : Block → Prop} {s t : State} (hstep : step s = .next t) (hs : I s.blk)
    (hreset : I Block.reset)
    (hcheck : ∀ b, I b → I (completionCheck b))
    (hwrite : ∀ v r, I (writeReg s.params v s.blk r))
    (hhost : ∀ i, i ≠ .softReset → I (hostEffect i s.blk))
    (hrx : ∀ x, I (rxByte s.params x s.blk))
    (htx : ∀ x b, txByte s.blk = some (x, b) → I b)
    (hfstop : I (forceStopOp s.blk)) : I t.blk := by
  have hb := (blockStep_of_next hstep).2
  generalize t.blk = b at hb ⊢
  cases hb with
  | same => exact hs
  | checked => exact hcheck _ hs
  | write v r => exact hcheck _ (hwrite v r)
  | host i hi => exact hcheck _ (hhost i hi)
  | rx x => exact hcheck _ (hrx x)
  | tx x b h => exact hcheck _ (htx x b h)
  | fstop => exact hcheck _ hfstop
  | reset => exact hreset

/-! ### Which fields an operation can change

Each lemma writes the operation's result as the old block with the fields listed; every other field
is as it was. -/

theorem completionCheck_frame (b : Block) : completionCheck b =
    { b with
      ev := (completionCheck b).ev
      curOp := (completionCheck b).curOp
      curSclass := (completionCheck b).curSclass } := by
  unfold completionCheck
  split <;> rfl

theorem writeReg_frame (p : Params) (v : Word) (b : Block) (r : Reg) : writeReg p v b r =
    { b with
      irqEn := (writeReg p v b r).irqEn
      notifySel := (writeReg p v b r).notifySel
      txHdr := (writeReg p v b r).txHdr
      txAux := (writeReg p v b r).txAux
      txPlen := (writeReg p v b r).txPlen
      txParam := (writeReg p v b r).txParam
      haltHdr := (writeReg p v b r).haltHdr
      haltAux := (writeReg p v b r).haltAux
      haltPlen := (writeReg p v b r).haltPlen
      haltArmed := (writeReg p v b r).haltArmed
      haltParam := (writeReg p v b r).haltParam } := by
  cases r <;> rfl

/-- SEND is refused, or admitted with no operation in flight (R142). -/
theorem sendOp_cases (sclass : BitVec 3) (b : Block) :
    (∃ code, sendOp sclass b = fail code 0x1 b) ∨
    (∃ cls, b.enable = true ∧ b.curOp = .none ∧ sendOp sclass b = admitted 0x1
      { b with hostFrame := some (hostContent b), curSclass := cls, curOp := .send }) := by
  unfold sendOp
  obtain ⟨code, -, h⟩ | ⟨cls, -, he, hc, -, h⟩ := admission_cases sclass b
  · exact .inl ⟨code, by rw [h]⟩
  · exact .inr ⟨cls, he, hc, by rw [h]⟩

/-- SEND_WAIT is refused, or admitted with no operation in flight (R143). -/
theorem sendWaitOp_cases (sclass : BitVec 3) (ecid : Byte) (b : Block) :
    (∃ code, sendWaitOp sclass ecid b = fail code 0x2 b) ∨
    (∃ cls, b.enable = true ∧ b.curOp = .none ∧ sendWaitOp sclass ecid b = admitted 0x2
      { arm ecid b with
        hostFrame := some (hostContent b), curSclass := cls, curOp := .sendWait }) := by
  unfold sendWaitOp
  obtain ⟨code, -, h⟩ | ⟨cls, -, he, hc, -, h⟩ := admission_cases sclass b
  · exact .inl ⟨code, by rw [h]⟩
  · exact .inr ⟨cls, he, hc, by rw [h]⟩

/-- WAIT is refused, or admitted with no operation in flight (R155). -/
theorem waitOp_cases (ecid : Byte) (b : Block) :
    (∃ code, waitOp ecid b = fail code 0x3 b) ∨
    (b.enable = true ∧ b.curOp = .none ∧
      waitOp ecid b = admitted 0x3 { arm ecid b with curOp := .wait }) := by
  unfold waitOp readyCheck
  by_cases he : b.enable = false
  · exact .inl ⟨.notReady, by rw [if_pos he]⟩
  · by_cases hc : b.curOp = .none
    · exact .inr ⟨by simpa using he, hc, by rw [if_neg he, if_neg (not_not.2 hc)]⟩
    · exact .inl ⟨.busy, by rw [if_neg he, if_pos hc]⟩

/-- CLEAR_COUNTERS is refused, or clears the counters and sets DONE (R156). -/
theorem clearCountersOp_cases (b : Block) :
    clearCountersOp b = fail .busy 0x4 b ∨
    (b.curOp = .none ∧ clearCountersOp b =
      admitted 0x4 { b with cnt := Counters.zero, ev := { b.ev with done := true } }) := by
  unfold clearCountersOp
  by_cases hc : b.curOp = .none
  · exact .inr ⟨hc, if_neg (not_not.2 hc)⟩
  · exact .inl (if_pos hc)

theorem hostEffect_frame {i : Instr} (hi : i ≠ .softReset) {b b' : Block}
    (h : hostEffect i b = b') : b' =
    { b with
      enable := b'.enable
      notifyApply := b'.notifyApply
      debugTee := b'.debugTee
      ev := b'.ev
      replyValid := b'.replyValid
      resCode := b'.resCode
      resOp := b'.resOp
      cnt := b'.cnt
      hostFrame := b'.hostFrame
      curOp := b'.curOp
      curSclass := b'.curSclass
      waiting := b'.waiting
      expectCid := b'.expectCid } := by
  cases i with
  | softReset => exact absurd rfl hi
  | send sclass =>
    obtain ⟨code, hs⟩ | ⟨cls, -, -, hs⟩ := sendOp_cases sclass (beginOp b) <;>
      cases hs.symm.trans h <;> rfl
  | sendWait sclass ecid =>
    obtain ⟨code, hs⟩ | ⟨cls, -, -, hs⟩ := sendWaitOp_cases sclass ecid (beginOp b) <;>
      cases hs.symm.trans h <;> rfl
  | wait ecid =>
    obtain ⟨code, hs⟩ | ⟨-, -, hs⟩ := waitOp_cases ecid (beginOp b) <;>
      cases hs.symm.trans h <;> rfl
  | clearCounters =>
    obtain hs | ⟨-, hs⟩ := clearCountersOp_cases (beginOp b) <;> cases hs.symm.trans h <;> rfl
  | _ => cases h; rfl

theorem txByte_frame {b b' : Block} {x : Byte} (h : txByte b = some (x, b')) : b' =
    { b with
      hostFrame := b'.hostFrame
      haltFrame := b'.haltFrame
      txCur := b'.txCur
      txWire := b'.txWire
      txPos := b'.txPos
      curSclass := b'.curSclass
      stream := b'.stream } := by
  obtain ⟨-, ⟨-, -, c, -, rfl⟩ | ⟨-, -, -, c, -, rfl⟩ | ⟨-, -, -, rfl⟩ | ⟨-, -, -, rfl⟩ |
    ⟨-, -, -, rfl⟩⟩ := txByte_cases h <;> rfl

theorem forceStopOp_frame (b : Block) : forceStopOp b =
    { b with ev := (forceStopOp b).ev, haltFrame := (forceStopOp b).haltFrame } := by
  obtain ⟨-, -, h⟩ | ⟨-, h⟩ := forceStopOp_cases b <;> rw [h]

theorem appendByte_frame (p : Params) (v : Byte) (b : Block) : appendByte p v b =
    { b with
      ev := (appendByte p v b).ev
      cnt := (appendByte p v b).cnt
      rxState := (appendByte p v b).rxState
      rxBuf := (appendByte p v b).rxBuf } := by
  obtain ⟨-, h⟩ | ⟨-, h⟩ := appendByte_cases p v b
  · rw [h]; rfl
  · rw [h]

/-- A received byte completes a valid frame, which is then correlated (R210), or changes nothing but
the events, the counters and the state of reception. -/
theorem rxByte_completes_or_frame (p : Params) (x : Byte) (b : Block) :
    (b.rxState = .body ∧ x = EOP ∧ ∃ body, validContent b.rxBuf body ∧ rxByte p x b =
      { correlate (parse body) { b with cnt := { b.cnt with ok := b.cnt.ok + 1 } } with
        rxBuf := [], rxState := .hunt }) ∨
    rxByte p x b =
      { b with
        ev := (rxByte p x b).ev
        cnt := (rxByte p x b).cnt
        rxState := (rxByte p x b).rxState
        rxBuf := (rxByte p x b).rxBuf } := by
  obtain ⟨-, -, h⟩ | ⟨-, -, h⟩ | ⟨hs, hx, h⟩ | ⟨-, -, h⟩ | ⟨-, -, -, h⟩ | ⟨-, h⟩ :=
    rxByte_cases p x b
  · exact .inr (by rw [h])
  · exact .inr (by rw [h])
  · obtain ⟨hp, -⟩ | ⟨hp, -⟩ | ⟨body, hbuf, hne, hlen, hp⟩ := processFrame_cases b.rxBuf b
    · exact .inr (by rw [h, hp]; rfl)
    · exact .inr (by rw [h, hp]; rfl)
    · exact .inl ⟨hs, hx, body, ⟨hbuf, hne, hlen⟩, by rw [h, hp]⟩
  · exact .inr (by rw [h])
  · exact .inr (by rw [h]; exact appendByte_frame p x b)
  · exact .inr (by rw [h]; exact appendByte_frame p _ { b with rxState := .body })

end Sys2Proof.Machine
end

section
/-! SUPPORT. The receive agent and the fields that the invariants speak of: the buffer's length, the
payload of a valid frame, and when the capture and position registers change. -/

open Sys2Proof.Statements

namespace Sys2Proof.Machine

/-- The payload is what follows the header (R215). -/
theorem parse_payload (body : List Byte) :
    (parse body).payload = body.drop (hlen (body.headD 0)) := by
  have hd : body.headD 0 = body.getD 0 0 := by cases body <;> rfl
  rw [hd]
  simp only [parse, hlen]
  cases hasTargetId (body.getD 0 0) <;> cases hasSourceId (body.getD 0 0) <;>
    cases isResponse (body.getD 0 0) <;> rfl

/-- A valid frame spends at least five bytes on its header and its checksum (R111, R170). -/
theorem payload_length_of_validContent {buf body : List Byte} (h : validContent buf body) :
    (parse body).payload.length + 5 ≤ buf.length := by
  obtain ⟨rfl, -, hl⟩ := h
  have h4 : 4 ≤ hlen (body.headD 0) := by unfold hlen; omega
  rw [parse_payload, List.length_drop, List.length_append, List.length_singleton]
  omega

/-- The receive buffer never grows past P_RXMAX (R60, R195). -/
theorem rxByte_rxBuf_le {p : Params} {b : Block} (h : b.rxBuf.length ≤ p.rxMax) (x : Byte) :
    (rxByte p x b).rxBuf.length ≤ p.rxMax := by
  have append : ∀ (v : Byte) (c : Block), c.rxBuf = b.rxBuf →
      (appendByte p v c).rxBuf.length ≤ p.rxMax := by
    intro v c hc
    obtain ⟨-, ha⟩ | ⟨hne, ha⟩ := appendByte_cases p v c
    · rw [ha]; exact Nat.zero_le _
    · rw [ha, List.length_append, List.length_singleton]
      rw [hc] at hne ⊢
      omega
  obtain ⟨-, -, hx⟩ | ⟨-, -, hx⟩ | ⟨-, -, hx⟩ | ⟨-, -, hx⟩ | ⟨-, -, -, hx⟩ | ⟨-, hx⟩ :=
    rxByte_cases p x b <;> rw [hx]
  · exact Nat.zero_le _
  · exact h
  · exact Nat.zero_le _
  · exact h
  · exact append x b rfl
  · exact append _ _ rfl

/-- The position registers (R53 to R55). -/
def Block.position (b : Block) : Word × Word × Byte × Bool × Bool × Bool × BitVec 16 :=
  (b.posX, b.posY, b.posToken, b.xValid, b.yValid, b.yFresh, b.posCount)

/-- The state of the operation in flight, of the wait and of the transmitter (R61 to R63). -/
def Block.opState (b : Block) :
    CurOp × StreamClass × Bool × Option (List Byte) × TxCur × List Byte × Nat :=
  (b.curOp, b.curSclass, b.waiting, b.hostFrame, b.txCur, b.txWire, b.txPos)

/-- What the correlator does to the capture registers and to the wait (R232). -/
theorem correlate_capture (f : RxFrame) (b : Block) :
    (isMatch f b = true ∧ (correlate f b).rxPlen = BitVec.ofNat 9 f.payload.length ∧
      (correlate f b).rxPayload = f.payload ∧
      (correlate f b).opState = { b with waiting := false }.opState) ∨
    (isMatch f b = false ∧ (correlate f b).rxPlen = b.rxPlen ∧
      (correlate f b).rxPayload = b.rxPayload ∧ (correlate f b).opState = b.opState) := by
  obtain ⟨hm, -, h⟩ | ⟨hm, -, h⟩ | ⟨hm, -, h⟩ | ⟨hm, -, h⟩ := correlate_cases f b <;> rw [h]
  · exact .inl ⟨hm, rfl, rfl, rfl⟩
  · exact .inl ⟨hm, rfl, rfl, rfl⟩
  · exact .inr ⟨hm, rfl, rfl, rfl⟩
  · exact .inr ⟨hm, rfl, rfl, rfl⟩

/-- A received byte captures a payload that came out of the buffer, or leaves the captured one. -/
theorem rxByte_capture (p : Params) (x : Byte) (b : Block) :
    ((rxByte p x b).rxPlen = BitVec.ofNat 9 (rxByte p x b).rxPayload.length ∧
      (rxByte p x b).rxPayload.length + 5 ≤ b.rxBuf.length) ∨
    ((rxByte p x b).rxPlen = b.rxPlen ∧ (rxByte p x b).rxPayload = b.rxPayload) := by
  obtain ⟨-, -, body, hv, hb⟩ | hb := rxByte_completes_or_frame p x b
  · rw [hb]
    obtain ⟨-, hplen, hpay, -⟩ | ⟨-, hplen, hpay, -⟩ := correlate_capture (parse body)
      { b with cnt := { b.cnt with ok := b.cnt.ok + 1 } }
    · refine .inl ⟨?_, ?_⟩
      · rw [hplen, hpay]
      · rw [hpay]; exact payload_length_of_validContent hv
    · exact .inr ⟨hplen, hpay⟩
  · rw [hb]
    exact .inr ⟨rfl, rfl⟩

/-- Only a position notification moves the position registers (R236). -/
theorem correlate_position {f : RxFrame} {b : Block} (h : isPosition f b = false) :
    (correlate f b).position = b.position := by
  obtain ⟨-, hp, -⟩ | ⟨-, -, hc⟩ | ⟨-, hp, -⟩ | ⟨-, -, hc⟩ := correlate_cases f b
  · rw [h] at hp; cases hp
  · rw [hc]; rfl
  · rw [h] at hp; cases hp
  · rw [hc]; rfl

/-- The correlator leaves the byte windows and the lengths of the descriptors alone. -/
theorem correlate_descriptors (f : RxFrame) (b : Block) :
    (correlate f b).txPlen = b.txPlen ∧ (correlate f b).haltPlen = b.haltPlen ∧
      (correlate f b).txParam = b.txParam ∧ (correlate f b).haltParam = b.haltParam := by
  obtain ⟨-, -, h⟩ | ⟨-, -, h⟩ | ⟨-, -, h⟩ | ⟨-, -, h⟩ := correlate_cases f b <;> rw [h] <;>
    exact ⟨rfl, rfl, rfl, rfl⟩

/-- Nor does any received byte change them. -/
theorem rxByte_descriptors (p : Params) (x : Byte) (b : Block) :
    (rxByte p x b).txPlen = b.txPlen ∧ (rxByte p x b).haltPlen = b.haltPlen ∧
      (rxByte p x b).txParam = b.txParam ∧ (rxByte p x b).haltParam = b.haltParam := by
  obtain ⟨-, -, body, -, h⟩ | h := rxByte_completes_or_frame p x b <;> rw [h]
  · exact correlate_descriptors (parse body) _
  · exact ⟨rfl, rfl, rfl, rfl⟩

/-- The model's guard of a position notification is R230's `is_pos`. -/
theorem isPosition_iff_notification (f : RxFrame) (b : Block) :
    isPosition f b = true ↔ notification f b := by
  have hcid : f.cid = selNcid b.notifySel ↔ f.cid.toNat = b.notifySel.toNat / 256 % 256 := by
    rw [← BitVec.toNat_inj, selNcid, BitVec.extractLsb'_toNat, Nat.shiftRight_eq_div_pow]
  have hdid : f.did = selNdid b.notifySel ↔ f.did.toNat = b.notifySel.toNat % 256 := by
    rw [← BitVec.toNat_inj, selNdid, BitVec.extractLsb'_toNat, Nat.shiftRight_zero]
  have hsel : selMatchDid b.notifySel = false ↔ b.notifySel.toNat < 65536 := by
    have hlt := b.notifySel.isLt
    rw [selMatchDid, BitVec.getLsbD, Nat.testBit_eq_decide_div_mod_eq]
    simp only [decide_eq_false_iff_not]
    omega
  simp only [isPosition, notification, Bool.and_eq_true, Bool.or_eq_true, Bool.not_eq_true',
    beq_iff_eq, decide_eq_true_eq, hcid, hdid, hsel, and_assoc]

end Sys2Proof.Machine
end

section
/-! SUPPORT. The register map (10_state.md R33, R58): which register stands at which offset, what the placed
fields of a word sum up to, and the host's reads and writes of a register in a settled block. -/

open Sys2Proof.Statements

namespace Sys2Proof.Machine

/-- The legal values of R6, as bounds. -/
theorem Params.legal_iff (p : Params) : p.legal = true ↔
    8 ≤ p.rxMax ∧ p.rxMax ≤ 256 ∧ 1 ≤ p.txMax ∧ p.txMax ≤ 256 ∧ p.base % 0x1000 = 0 := by
  simp [Params.legal, and_assoc]

/-! ### Offsets -/

/-- R33's table lists each of its offsets once. -/
theorem regAt_of_mem (p : Params) {off : Nat} {r : Reg} (h : (off, r) ∈ namedRegs) :
    regAt p off = r := by
  have hl : ∀ c ∈ namedRegs, namedRegs.lookup c.1 = some c.2 := by decide
  unfold regAt
  rw [hl _ h]

/-- An offset that R33's table does not list is a slot of a byte array, or reserved. -/
theorem regAt_of_not_named (p : Params) {off : Nat} (h : ∀ c ∈ namedRegs, c.1 ≠ off) :
    regAt p off =
      if 0x400 ≤ off ∧ off < 0x400 + 4 * p.rxMax then .rxPayload ((off - 0x400) / 4)
      else if 0x800 ≤ off ∧ off < 0x800 + 4 * p.txMax then .txParam ((off - 0x800) / 4)
      else if 0xC00 ≤ off ∧ off < 0xC00 + 4 * HALT_PMAX then .haltParam ((off - 0xC00) / 4)
      else .reserved := by
  have hl : namedRegs.lookup off = none :=
    List.lookup_eq_none_iff.2 fun c hc => by simpa using (h c hc).symm
  unfold regAt
  rw [hl]

/-- The listed offsets end at PARAMS. -/
theorem named_offset_le : ∀ c ∈ namedRegs, c.1 ≤ 0x078 := by decide

theorem not_named_of_gt {off : Nat} (h : 0x078 < off) : ∀ c ∈ namedRegs, c.1 ≠ off := fun c hc => by
  have := named_offset_le c hc
  omega

theorem regAt_rxPayload {p : Params} {i : Nat} (hi : i < p.rxMax) :
    regAt p (0x400 + 4 * i) = .rxPayload i := by
  rw [regAt_of_not_named p (not_named_of_gt (by omega)), if_pos (by omega)]
  congr 1
  omega

theorem regAt_txParam {p : Params} (hp : p.legal = true) {i : Nat} (hi : i < p.txMax) :
    regAt p (0x800 + 4 * i) = .txParam i := by
  obtain ⟨-, hrx, -⟩ := (Params.legal_iff p).1 hp
  rw [regAt_of_not_named p (not_named_of_gt (by omega)), if_neg (by omega), if_pos (by omega)]
  congr 1
  omega

theorem regAt_haltParam {p : Params} (hp : p.legal = true) {i : Nat} (hi : i < HALT_PMAX) :
    regAt p (0xC00 + 4 * i) = .haltParam i := by
  obtain ⟨-, hrx, -, htx, -⟩ := (Params.legal_iff p).1 hp
  rw [regAt_of_not_named p (not_named_of_gt (by omega)), if_neg (by omega), if_neg (by omega),
    if_pos (by omega)]
  congr 1
  omega

theorem regAt_reserved {p : Params} {off : Nat} (hp : p.legal = true) (hr : reservedOffset p off) :
    regAt p off = .reserved := by
  obtain ⟨-, hrx, -, htx, -⟩ := (Params.legal_iff p).1 hp
  have hgaps : ∀ o ∈ [0x01C, 0x02C, 0x03C, 0x04C, 0x05C], ∀ c ∈ namedRegs, c.1 ≠ o := by decide
  have hgap_lt : ∀ o ∈ [0x01C, 0x02C, 0x03C, 0x04C, 0x05C], o < 0x400 := by decide
  have hnot : ∀ c ∈ namedRegs, c.1 ≠ off := by
    rcases hr with hg | hr
    · exact hgaps off hg
    · exact not_named_of_gt (by omega)
  have hout : off < 0x400 ∨ (0x400 + 4 * p.rxMax ≤ off ∧ off < 0x800) ∨
      (0x800 + 4 * p.txMax ≤ off ∧ off < 0xC00) ∨ 0xC20 ≤ off := by
    rcases hr with hg | hr
    · exact .inl (hgap_lt off hg)
    · omega
  rw [regAt_of_not_named p hnot, if_neg (by omega), if_neg (by omega),
    if_neg (by unfold HALT_PMAX; omega)]

/-- ID and PARAMS stand at their offsets only. -/
theorem regAt_constants (p : Params) (off : Nat) :
    (regAt p off = .id ↔ off = 0x000) ∧ (regAt p off = .params ↔ off = 0x078) := by
  by_cases hn : ∀ c ∈ namedRegs, c.1 ≠ off
  · have h0 : off ≠ 0x000 := fun h => hn (0x000, .id) (by decide) h.symm
    have h1 : off ≠ 0x078 := fun h => hn (0x078, .params) (by decide) h.symm
    rw [regAt_of_not_named p hn]
    constructor <;> split_ifs <;> simp [h0, h1]
  · push Not at hn
    obtain ⟨⟨o, r⟩, hc, rfl⟩ := hn
    rw [regAt_of_mem p hc]
    have hid : ∀ c ∈ namedRegs, (c.2 = Reg.id ↔ c.1 = 0x000) ∧ (c.2 = Reg.params ↔ c.1 = 0x078) := by
      decide
    exact hid _ hc

/-! ### Words as sums of their fields -/

theorem toNat_field {n k : Nat} (v : BitVec n) (h : k + n ≤ 32) :
    (field v k).toNat = 2 ^ k * v.toNat := by
  have hv : v.toNat * 2 ^ k < 2 ^ 32 := calc
    v.toNat * 2 ^ k < 2 ^ n * 2 ^ k := Nat.mul_lt_mul_of_pos_right v.isLt (Nat.two_pow_pos k)
    _ = 2 ^ (k + n) := by rw [← Nat.pow_add, Nat.add_comm]
    _ ≤ 2 ^ 32 := Nat.pow_le_pow_right (by decide) h
  have hw : v.toNat < 2 ^ 32 :=
    v.isLt.trans_le (Nat.pow_le_pow_right (by decide) (by omega))
  rw [field, BitVec.toNat_shiftLeft, BitVec.toNat_setWidth, Nat.mod_eq_of_lt hw,
    Nat.shiftLeft_eq, Nat.mod_eq_of_lt hv, Nat.mul_comm]

/-- The word is the number v, and v fits in its k low bits. -/
structure Packed (w : Word) (k v : Nat) : Prop where
  toNat_eq : w.toNat = v
  lt : v < 2 ^ k

theorem Packed.of_field {n : Nat} (v : BitVec n) (k : Nat) (h : k + n ≤ 32 := by decide) :
    Packed (field v k) (k + n) (2 ^ k * v.toNat) where
  toNat_eq := toNat_field v h
  lt := by rw [Nat.pow_add]; exact Nat.mul_lt_mul_of_pos_left v.isLt (Nat.two_pow_pos k)

/-- A field placed above the bits in use adds its value at its place. -/
theorem Packed.or_field {w : Word} {j x n : Nat} (hw : Packed w j x) (v : BitVec n) (k : Nat)
    (hj : j ≤ k := by decide) (h : k + n ≤ 32 := by decide) :
    Packed (w ||| field v k) (k + n) (x + 2 ^ k * v.toNat) where
  toNat_eq := by
    have hlt : w.toNat < 2 ^ k := by
      rw [hw.toNat_eq]; exact hw.lt.trans_le (Nat.pow_le_pow_right (by decide) hj)
    rw [BitVec.toNat_or, toNat_field v h, Nat.or_comm, ← Nat.two_pow_add_eq_or_of_lt hlt,
      Nat.add_comm, hw.toNat_eq]
  lt := by
    have hlt : x < 2 ^ k := hw.lt.trans_le (Nat.pow_le_pow_right (by decide) hj)
    calc x + 2 ^ k * v.toNat
      _ < 2 ^ k * (v.toNat + 1) := by rw [Nat.mul_add, Nat.mul_one]; omega
      _ ≤ 2 ^ k * 2 ^ n := Nat.mul_le_mul_left _ v.isLt
      _ = 2 ^ (k + n) := (Nat.pow_add 2 k n).symm

theorem Packed.of_flag (b : Bool) (k : Nat) (h : k + 1 ≤ 32 := by decide) :
    Packed (flag b k) (k + 1) (2 ^ k * b.toNat) := by
  rw [← BitVec.toNat_ofBool]; exact .of_field _ k h

theorem Packed.or_flag {w : Word} {j x : Nat} (hw : Packed w j x) (b : Bool) (k : Nat)
    (hj : j ≤ k := by decide) (h : k + 1 ≤ 32 := by decide) :
    Packed (w ||| flag b k) (k + 1) (x + 2 ^ k * b.toNat) := by
  rw [← BitVec.toNat_ofBool]; exact hw.or_field _ k hj h

/-- A field at bit 0 is its own value. -/
theorem Packed.at_zero {n : Nat} (v : BitVec n) (h : n ≤ 32 := by decide) :
    Packed (field v 0) n v.toNat := by
  simpa using Packed.of_field v 0 (by omega)

theorem Packed.flag_at_zero (b : Bool) : Packed (flag b 0) 1 b.toNat := by
  simpa using Packed.of_flag b 0

theorem ctrlWord_toNat (b : Block) : (ctrlWord b).toNat =
    b.enable.toNat + 2 * b.notifyApply.toNat + 4 * b.debugTee.toNat :=
  (((Packed.flag_at_zero b.enable).or_flag b.notifyApply 1).or_flag b.debugTee 2).toNat_eq

theorem EventBits.word_toNat (e : EventBits) : e.word.toNat =
    256 * e.done.toNat + 512 * e.opFail.toNat + 1024 * e.posUpd.toNat + 2048 * e.abort.toNat
      + 4096 * e.rxErr.toNat + 8192 * e.fstopDrop.toNat :=
  ((((((Packed.of_flag e.done 8).or_flag e.opFail 9).or_flag e.posUpd 10).or_flag e.abort 11).or_flag
    e.rxErr 12).or_flag e.fstopDrop 13).toNat_eq

theorem ResultCode.bits_toNat (c : ResultCode) : c.bits.toNat = codeNumber c := by
  cases c <;> rfl

theorem opResultWord_toNat (b : Block) :
    (opResultWord b).toNat = codeNumber b.resCode + 256 * b.resOp.toNat := by
  rw [← ResultCode.bits_toNat]
  exact ((Packed.at_zero b.resCode.bits).or_field b.resOp 8).toNat_eq

theorem haltCfgWord_toNat (b : Block) :
    (haltCfgWord b).toNat = b.haltPlen.toNat + 2 ^ 31 * b.haltArmed.toNat :=
  ((Packed.at_zero b.haltPlen).or_flag b.haltArmed 31).toNat_eq

theorem posInfoWord_toNat (b : Block) : (posInfoWord b).toNat =
    b.posToken.toNat + 256 * b.xValid.toNat + 512 * b.yValid.toNat + 1024 * b.yFresh.toNat
      + 65536 * b.posCount.toNat :=
  (((((Packed.at_zero b.posToken).or_flag b.xValid 8).or_flag b.yValid 9).or_flag b.yFresh
    10).or_field b.posCount 16).toNat_eq

theorem paramsWord_toNat {p : Params} (hp : p.legal = true) :
    (paramsWord p).toNat = p.rxMax + 65536 * p.txMax := by
  obtain ⟨-, hrx, -, htx, -⟩ := (Params.legal_iff p).1 hp
  have h := ((Packed.at_zero (BitVec.ofNat 9 p.rxMax)).or_field (BitVec.ofNat 9 p.txMax) 16).toNat_eq
  rw [BitVec.toNat_ofNat, BitVec.toNat_ofNat, Nat.mod_eq_of_lt (by omega),
    Nat.mod_eq_of_lt (by omega)] at h
  exact h

/-! ### STATUS -/

/-- A bit of STATUS is the bit of some flag or field placed there (R36). -/
theorem statusWord_getLsbD (b : Block) (k : Nat) : (statusWord b).getLsbD k =
    (decide (k < 32) &&
      ((decide (k = 0) && b.txBusy) || (decide (k = 1) && b.waiting) ||
        (decide (k = 2) && b.haltBusy) || (decide (k = 3) && b.replyValid) ||
        (decide (4 ≤ k) && b.stream.bits.getLsbD (k - 4)) ||
        ((decide (k = 8) && b.ev.done) || (decide (k = 9) && b.ev.opFail) ||
          (decide (k = 10) && b.ev.posUpd) || (decide (k = 11) && b.ev.abort) ||
          (decide (k = 12) && b.ev.rxErr) || (decide (k = 13) && b.ev.fstopDrop)))) := by
  simp only [statusWord, EventBits.word, BitVec.getLsbD_or, getLsbD_flag, getLsbD_field,
    Bool.and_or_distrib_left, Bool.and_assoc]

/-- The reserved bits of STATUS read 0. -/
theorem statusWord_reserved (b : Block) {k : Nat} (hk : k = 6 ∨ k = 7 ∨ 14 ≤ k) :
    (statusWord b).getLsbD k = false := by
  have hst : b.stream.bits.getLsbD (k - 4) = false := BitVec.getLsbD_of_ge _ _ (by omega)
  rw [statusWord_getLsbD, hst]
  have h : k ≠ 0 ∧ k ≠ 1 ∧ k ≠ 2 ∧ k ≠ 3 ∧ k ≠ 8 ∧ k ≠ 9 ∧ k ≠ 10 ∧ k ≠ 11 ∧ k ≠ 12 ∧ k ≠ 13 := by
    omega
  simp [h]

/-- STATUS.STREAM is the two bits above bit 3. -/
theorem statusWord_stream (b : Block) : (statusWord b).toNat / 16 % 4 = b.stream.bits.toNat := by
  have h : (statusWord b).extractLsb' 4 2 = b.stream.bits := by
    ext i hi
    have hb : i = 0 ∨ i = 1 := by omega
    rw [BitVec.getElem_extractLsb', statusWord_getLsbD]
    rcases hb with rfl | rfl <;> simp
  rw [← h, BitVec.extractLsb'_toNat, Nat.shiftRight_eq_div_pow]

/-! ### Reads and writes of the window -/

theorem reads_of_mem {p : Params} {b : Block} {off : Nat} {r : Reg} {v : Nat}
    (h : (off, r) ∈ namedRegs) (hv : (readReg p b r).toNat = v) : reads p b off = v := by
  rw [reads, regAt_of_mem p h, hv]

theorem settle_of_unfinished {s : State} (h : s.blk.unfinished) : s.settle = s := by
  rw [State.settle, completionCheck_of_unfinished h]

/-- A read of a register of the window, while no operation is left to complete, only answers (R88). -/
theorem step_read_of_settled {s : State} {off : Nat} {more : List HostStmt} {rest : List Event}
    (h : hostNext (.rd off 4) more rest s) (ho : alignedOffset off) (hs : settled s.blk) :
    step s = .next (answered (.data off (readReg s.params s.blk (regAt s.params off))) more s.blk
      rest s) := by
  rw [step_read h ho.2 ho.1, settle_of_unfinished]
  · rfl
  · exact hs

/-- A write to a register that starts nothing stores its fields (R89), before the completion check. -/
theorem step_write_register {s : State} {off : Nat} {v : Word} {more : List HostStmt}
    {rest : List Event} (h : hostNext (.wr off 4 v) more rest s) (ho : alignedOffset off)
    (hcmd : regAt s.params off ≠ .cmd) (hctrl : regAt s.params off ≠ .ctrl)
    (hstatus : regAt s.params off ≠ .status) :
    step s = .next (wrote off (writeReg s.params v s.blk (regAt s.params off)) more rest s).settle := by
  rw [step_write h ho.2 ho.1]
  cases hr : regAt s.params off with
  | cmd => exact absurd hr hcmd
  | ctrl => exact absurd hr hctrl
  | status => exact absurd hr hstatus
  | _ => rfl

end Sys2Proof.Machine
end

section
/-! The invariants of Safety.lean (10_state.md R66, the bounds of the register fields, the canonical form of
the byte windows): kept by each operation, and so by every step. Then the statements about the registers. -/

open Sys2Proof.Statements

namespace Sys2Proof.Machine

/-! ### The byte windows -/

/-- The two byte windows (R44, R48). -/
def Block.windows (b : Block) : Memory × Memory := (b.txParam, b.haltParam)

/-- MemInv speaks of the two byte windows alone. -/
theorem State.MemInv.of_windows {s t : State} (h : s.MemInv)
    (hw : t.blk.windows = s.blk.windows) : t.MemInv := by
  simp only [Block.windows, Prod.mk.injEq] at hw
  obtain ⟨htx, hhalt⟩ := hw
  exact ⟨htx ▸ h.txParam_wf, hhalt ▸ h.haltParam_wf⟩

/-- A register write stores at most one byte in a window (R44, R48). -/
theorem State.MemInv.after_writeReg {s : State} (h : s.MemInv) (p : Params) (v : Word) (r : Reg) :
    (s.withBlk (writeReg p v s.blk r)).MemInv := by
  cases r with
  | txParam i => exact ⟨Memory.write_wf i _ h.txParam_wf, h.haltParam_wf⟩
  | haltParam i => exact ⟨h.txParam_wf, Memory.write_wf i _ h.haltParam_wf⟩
  | _ => exact h.of_windows rfl

/-- Settles O56: only a register write changes a window, and Memory.write keeps its form. -/
theorem stepKeepsMemInv : Obligations.StepKeepsMemInv := by
  intro s t h hstep
  have hkept : (s.withBlk t.blk).MemInv :=
    step_keeps (I := fun b => (s.withBlk b).MemInv) hstep h
      (hreset := ⟨rfl, rfl⟩)
      (hcheck := fun b hb =>
        hb.of_windows ((congrArg Block.windows (completionCheck_frame b)).trans rfl))
      (hwrite := fun v r => h.after_writeReg s.params v r)
      (hhost := fun i hi =>
        h.of_windows ((congrArg Block.windows (hostEffect_frame hi rfl)).trans rfl))
      (hrx := fun x =>
        have ⟨_, _, htx, hhalt⟩ := rxByte_descriptors s.params x s.blk
        h.of_windows (Prod.ext htx hhalt))
      (htx := fun x b hb => h.of_windows ((congrArg Block.windows (txByte_frame hb)).trans rfl))
      (hfstop := h.of_windows ((congrArg Block.windows (forceStopOp_frame s.blk)).trans rfl))
  exact hkept.of_windows rfl

/-! ### The bounds of the register fields -/

/-- The fields that RegInv bounds. -/
def Block.bounded (b : Block) : BitVec 9 × BitVec 4 × List Byte × BitVec 9 × List Byte :=
  (b.txPlen, b.haltPlen, b.rxBuf, b.rxPlen, b.rxPayload)

/-- RegInv speaks of the parameters and of those fields alone. -/
theorem State.RegInv.of_bounded {s t : State} (h : s.RegInv) (hp : t.params = s.params)
    (hb : t.blk.bounded = s.blk.bounded) : t.RegInv := by
  simp only [Block.bounded, Prod.mk.injEq] at hb
  obtain ⟨htx, hhalt, hbuf, hplen, hpay⟩ := hb
  exact
    { params_legal := hp ▸ h.params_legal
      txPlen_le := by rw [htx, hp]; exact h.txPlen_le
      haltPlen_le := by rw [hhalt]; exact h.haltPlen_le
      rxBuf_le := by rw [hbuf, hp]; exact h.rxBuf_le
      rxPlen_le := by rw [hplen, hp]; exact h.rxPlen_le
      rxPlen_eq := by rw [hplen, hpay]; exact h.rxPlen_eq }

/-- A stored field is no larger than the value it was limited to. -/
theorem toNat_ofNat_min_le (w n m : Nat) : (BitVec.ofNat w (min n m)).toNat ≤ m := by
  rw [BitVec.toNat_ofNat]
  exact (Nat.mod_le _ _).trans (Nat.min_le_right n m)

/-- A register write limits TX_PLEN and HALT_CFG.PLEN (R43, R47). -/
theorem State.RegInv.after_writeReg {s : State} (h : s.RegInv) (v : Word) (r : Reg) :
    (s.withBlk (writeReg s.params v s.blk r)).RegInv := by
  cases r with
  | txPlen => exact { h with txPlen_le := toNat_ofNat_min_le 9 _ _ }
  | haltCfg => exact { h with haltPlen_le := toNat_ofNat_min_le 4 _ _ }
  | _ => exact h.of_bounded rfl rfl

/-- A received byte keeps the buffer within P_RXMAX, and so the payload that is captured out of it (R51,
R52). -/
theorem State.RegInv.after_rxByte {s : State} (h : s.RegInv) (x : Byte) :
    (s.withBlk (rxByte s.params x s.blk)).RegInv := by
  obtain ⟨-, hrx, -, -, -⟩ := (Params.legal_iff s.params).1 h.params_legal
  obtain ⟨htx, hhalt, -, -⟩ := rxByte_descriptors s.params x s.blk
  have hbuf := h.rxBuf_le
  obtain ⟨hle, heq⟩ : (rxByte s.params x s.blk).rxPlen.toNat ≤ s.params.rxMax - 5 ∧
      (rxByte s.params x s.blk).rxPayload.length = (rxByte s.params x s.blk).rxPlen.toNat := by
    obtain ⟨hplen, hlen⟩ | ⟨hplen, hpay⟩ := rxByte_capture s.params x s.blk
    · rw [hplen, BitVec.toNat_ofNat]
      omega
    · rw [hplen, hpay]
      exact ⟨h.rxPlen_le, h.rxPlen_eq⟩
  exact
    { params_legal := h.params_legal
      txPlen_le := by rw [withBlk_blk, htx]; exact h.txPlen_le
      haltPlen_le := by rw [withBlk_blk, hhalt]; exact h.haltPlen_le
      rxBuf_le := rxByte_rxBuf_le hbuf x
      rxPlen_le := hle
      rxPlen_eq := heq }

theorem State.RegInv.after_reset {s : State} (hp : s.params.legal = true) :
    (s.withBlk Block.reset).RegInv where
  params_legal := hp
  txPlen_le := Nat.zero_le _
  haltPlen_le := Nat.zero_le _
  rxBuf_le := Nat.zero_le _
  rxPlen_le := Nat.zero_le _
  rxPlen_eq := rfl

/-- Settles O55: only a register write and a received byte touch the bounded fields. -/
theorem stepKeepsRegInv : Obligations.StepKeepsRegInv := by
  intro s t h hstep
  have hkept : (s.withBlk t.blk).RegInv :=
    step_keeps (I := fun b => (s.withBlk b).RegInv) hstep h
      (hreset := .after_reset h.params_legal)
      (hcheck := fun b hb =>
        hb.of_bounded rfl ((congrArg Block.bounded (completionCheck_frame b)).trans rfl))
      (hwrite := h.after_writeReg)
      (hhost := fun i hi =>
        h.of_bounded rfl ((congrArg Block.bounded (hostEffect_frame hi rfl)).trans rfl))
      (hrx := h.after_rxByte)
      (htx := fun x b hb => h.of_bounded rfl ((congrArg Block.bounded (txByte_frame hb)).trans rfl))
      (hfstop := h.of_bounded rfl ((congrArg Block.bounded (forceStopOp_frame s.blk)).trans rfl))
  have hp : t.params = s.params := step_params hstep
  exact hkept.of_bounded hp rfl

/-! ### The invariants of R66 -/

/-- OpInv speaks of the receive buffer's length and of the state of the operation alone. -/
theorem State.OpInv.of_opState {s t : State} (h : s.OpInv)
    (hbuf : t.blk.rxBuf.length ≤ t.params.rxMax) (hop : t.blk.opState = s.blk.opState) :
    t.OpInv := by
  simp only [Block.opState, Prod.mk.injEq] at hop
  obtain ⟨hcur, hcls, hwait, hhost, htx, hwire, hpos⟩ := hop
  exact
    { rxBuf_le := hbuf
      waiting_op := by rw [hwait, hcur]; exact h.waiting_op
      frame_op := by rw [hhost, htx, hcur]; exact h.frame_op
      none_idle := by rw [hcur, hwait, hhost, htx]; exact h.none_idle
      sclass_op := by rw [hcls, hcur, hhost, htx]; exact h.sclass_op
      idle_empty := by rw [htx, hpos, hwire]; exact h.idle_empty }

theorem State.OpInv.after_reset (s : State) : (s.withBlk Block.reset).OpInv where
  rxBuf_le := Nat.zero_le _
  waiting_op := nofun
  frame_op h := by rcases h with h | h; exacts [absurd rfl h, nomatch h]
  none_idle _ := ⟨rfl, rfl, nofun⟩
  sclass_op h := absurd rfl h
  idle_empty _ := ⟨rfl, rfl⟩

/-- The completion check ends an operation only when nothing of it is left (R153). -/
theorem State.OpInv.after_completionCheck {s : State} (h : s.OpInv) :
    (s.withBlk (completionCheck s.blk)).OpInv := by
  obtain ⟨-, -, hhost, htx, hwait, hc⟩ | ⟨-, hc⟩ := completionCheck_cases s.blk <;> rw [hc]
  · exact
      { rxBuf_le := h.rxBuf_le
        waiting_op := fun hw => by rw [withBlk_blk, hwait] at hw; cases hw
        frame_op := fun hf => absurd hf (not_or.2 ⟨not_not.2 hhost, htx⟩)
        none_idle := fun _ => ⟨hwait, hhost, htx⟩
        sclass_op := fun hcls => absurd rfl hcls
        idle_empty := h.idle_empty }
  · exact h

/-- Nothing of a frame or of a wait is left when no operation is in flight, so its class is NONE too. -/
theorem State.OpInv.sclass_of_none {s : State} (h : s.OpInv) (hc : s.blk.curOp = .none) :
    s.blk.curSclass = .none := by
  by_contra hcls
  have := (h.sclass_op hcls).1
  rw [hc] at this
  cases this

/-- Queueing a host frame starts an operation that sends (R142, R143). -/
theorem State.OpInv.queueFrame {s t : State} (h : s.OpInv) {content : List Byte} {cls : StreamClass}
    {o : CurOp} {wait : Bool} (hsends : o.sends = true) (hwaits : wait = true → o.waits = true)
    (hbuf : t.blk.rxBuf.length ≤ t.params.rxMax)
    (hop : t.blk.opState =
      (o, cls, wait, some content, s.blk.txCur, s.blk.txWire, s.blk.txPos)) : t.OpInv := by
  simp only [Block.opState, Prod.mk.injEq] at hop
  obtain ⟨hcur, -, hw, hhost, htx, hwire, hpos⟩ := hop
  exact
    { rxBuf_le := hbuf
      waiting_op := by rw [hw, hcur]; exact hwaits
      frame_op := fun _ => hcur ▸ hsends
      none_idle := fun hn => by rw [← hcur, hn] at hsends; cases hsends
      sclass_op := fun _ => ⟨hcur ▸ hsends, .inl (by rw [hhost]; nofun)⟩
      idle_empty := by rw [htx, hpos, hwire]; exact h.idle_empty }

/-- A wait alone starts an operation without a frame (R155). -/
theorem State.OpInv.startWait {s t : State} (h : s.OpInv) (hc : s.blk.curOp = .none)
    (hbuf : t.blk.rxBuf.length ≤ t.params.rxMax)
    (hop : t.blk.opState = (.wait, s.blk.curSclass, true, s.blk.hostFrame, s.blk.txCur,
      s.blk.txWire, s.blk.txPos)) : t.OpInv := by
  simp only [Block.opState, Prod.mk.injEq] at hop
  obtain ⟨hcur, hcls, -, hhost, htx, hwire, hpos⟩ := hop
  obtain ⟨-, hnof, hnoh⟩ := h.none_idle hc
  have hnone := h.sclass_of_none hc
  exact
    { rxBuf_le := hbuf
      waiting_op := fun _ => by rw [hcur]; rfl
      frame_op := by rw [hhost, htx]; exact fun hf => absurd hf (not_or.2 ⟨not_not.2 hnof, hnoh⟩)
      none_idle := fun hn => by rw [hcur] at hn; cases hn
      sclass_op := by rw [hcls]; exact fun hcl => absurd hnone hcl
      idle_empty := by rw [htx, hpos, hwire]; exact h.idle_empty }

/-- The host's instructions keep R66. -/
theorem State.OpInv.after_hostEffect {s : State} (h : s.OpInv) {i : Instr} (hi : i ≠ .softReset) :
    (s.withBlk (hostEffect i s.blk)).OpInv := by
  have hbuf := h.rxBuf_le
  cases i with
  | softReset => exact absurd rfl hi
  | send sclass =>
    change (s.withBlk (sendOp sclass (beginOp s.blk))).OpInv
    obtain ⟨code, hs⟩ | ⟨cls, -, hc, hs⟩ := sendOp_cases sclass (beginOp s.blk) <;> rw [hs]
    · exact h.of_opState hbuf rfl
    · exact h.queueFrame (o := .send) (wait := s.blk.waiting) rfl
        (fun hw => by rw [(h.none_idle hc).1] at hw; cases hw) hbuf rfl
  | sendWait sclass ecid =>
    change (s.withBlk (sendWaitOp sclass ecid (beginOp s.blk))).OpInv
    obtain ⟨code, hs⟩ | ⟨cls, -, hc, hs⟩ := sendWaitOp_cases sclass ecid (beginOp s.blk) <;> rw [hs]
    · exact h.of_opState hbuf rfl
    · exact h.queueFrame (o := .sendWait) (wait := true) rfl (fun _ => rfl) hbuf rfl
  | wait ecid =>
    change (s.withBlk (waitOp ecid (beginOp s.blk))).OpInv
    obtain ⟨code, hs⟩ | ⟨-, hc, hs⟩ := waitOp_cases ecid (beginOp s.blk) <;> rw [hs]
    · exact h.of_opState hbuf rfl
    · exact h.startWait hc hbuf rfl
  | clearCounters =>
    change (s.withBlk (clearCountersOp (beginOp s.blk))).OpInv
    obtain hs | ⟨-, hs⟩ := clearCountersOp_cases (beginOp s.blk) <;> rw [hs] <;>
      exact h.of_opState hbuf rfl
  | _ => exact h.of_opState hbuf rfl

/-- A received byte can only end the wait (R154). -/
theorem State.OpInv.after_rxByte {s : State} (h : s.OpInv) (x : Byte) :
    (s.withBlk (rxByte s.params x s.blk)).OpInv := by
  have hbuf := rxByte_rxBuf_le h.rxBuf_le x
  have hcaptured : (s.withBlk { s.blk with waiting := false }).OpInv :=
    { h with
      waiting_op := nofun
      none_idle := fun hn => ⟨rfl, (h.none_idle hn).2⟩ }
  obtain ⟨-, -, body, -, hb⟩ | hb := rxByte_completes_or_frame s.params x s.blk
  · obtain ⟨-, -, -, hop⟩ | ⟨-, -, -, hop⟩ := correlate_capture (parse body)
      { s.blk with cnt := { s.blk.cnt with ok := s.blk.cnt.ok + 1 } }
    · exact hcaptured.of_opState hbuf ((congrArg Block.opState hb).trans hop)
    · exact h.of_opState hbuf ((congrArg Block.opState hb).trans hop)
  · exact h.of_opState hbuf ((congrArg Block.opState hb).trans rfl)

/-- A halt frame on its way, begun or ended, leaves the operation as it was (R179). -/
theorem State.OpInv.after_haltFrame {s : State} (h : s.OpInv) (hs : s.blk.txCur ≠ .host)
    {queued : Option (List Byte)} {cur : TxCur} {wire : List Byte} {pos : Nat} (hcur : cur ≠ .host)
    (hidle : cur = .idle → pos = 0 ∧ wire = []) :
    (s.withBlk { s.blk with haltFrame := queued, txCur := cur, txWire := wire, txPos := pos }).OpInv :=
  { h with
    frame_op := fun hf => h.frame_op (.inl (hf.resolve_right hcur))
    none_idle := fun hn =>
      have ⟨hwait, hhost, _⟩ := h.none_idle hn
      ⟨hwait, hhost, hcur⟩
    sclass_op := fun hcls =>
      have ⟨hsends, hf⟩ := h.sclass_op hcls
      ⟨hsends, .inl (hf.resolve_right hs)⟩
    idle_empty := hidle }

/-- The TX agent's step keeps R66: a host frame is queued, then being sent, then gone with its class. -/
theorem State.OpInv.after_txByte {s : State} (h : s.OpInv) {x : Byte} {b : Block}
    (hb : txByte s.blk = some (x, b)) : (s.withBlk b).OpInv := by
  obtain ⟨-, ⟨hidle, -, c, -, rfl⟩ | ⟨-, -, -, c, hc, rfl⟩ | ⟨hbusy, -, -, rfl⟩ |
    ⟨hhalt, -, -, rfl⟩ | ⟨-, -, -, rfl⟩⟩ := txByte_cases hb
  · exact h.after_haltFrame (by rw [hidle]; nofun) nofun nofun
  · have hsends : s.blk.curOp.sends = true := h.frame_op (.inl (by rw [hc]; nofun))
    have hne : s.blk.curOp ≠ .none := fun hn => by rw [hn] at hsends; cases hsends
    exact
      { h with
        frame_op := fun _ => hsends
        none_idle := fun hn => absurd hn hne
        sclass_op := fun _ => ⟨hsends, .inr rfl⟩
        idle_empty := nofun }
  · exact { h with idle_empty := fun hidle => absurd hidle hbusy }
  · exact h.after_haltFrame (by rw [hhalt]; nofun) nofun fun _ => ⟨rfl, rfl⟩
  · exact
      { h with
        frame_op := fun hf => h.frame_op (.inl (hf.resolve_right nofun))
        none_idle := fun hn =>
          have ⟨hwait, hhost, _⟩ := h.none_idle hn
          ⟨hwait, hhost, nofun⟩
        sclass_op := fun hcls => absurd rfl hcls
        idle_empty := fun _ => ⟨rfl, rfl⟩ }

/-- Settles O54: each agent's operation keeps R66, and so does the completion check after it. -/
theorem stepKeepsOpInv : Obligations.StepKeepsOpInv := by
  intro s t h hstep
  have hkept : (s.withBlk t.blk).OpInv :=
    step_keeps (I := fun b => (s.withBlk b).OpInv) hstep h
      (hreset := State.OpInv.after_reset s)
      (hcheck := fun _ hb => hb.after_completionCheck)
      (hwrite := fun v r => h.of_opState
        ((congrArg (·.rxBuf.length) (writeReg_frame s.params v s.blk r)).trans_le h.rxBuf_le)
        ((congrArg Block.opState (writeReg_frame s.params v s.blk r)).trans rfl))
      (hhost := fun _ hi => h.after_hostEffect hi)
      (hrx := h.after_rxByte)
      (htx := fun _ _ hb => h.after_txByte hb)
      (hfstop := h.of_opState
        ((congrArg (·.rxBuf.length) (forceStopOp_frame s.blk)).trans_le h.rxBuf_le)
        ((congrArg Block.opState (forceStopOp_frame s.blk)).trans rfl))
  exact hkept.of_opState (by rw [step_params hstep]; exact hkept.rxBuf_le) rfl

/-! ### Reset -/

/-- The open parameters are legal (R6). -/
theorem Config.params_legal : Config.params.legal = true := by
  rw [Params.legal_iff]
  have hrx := Config.rxMaxOver8.isLt
  have htx := Config.txMaxOver1.isLt
  simp only [Config.params]
  omega

/-- Settles O53: nothing is in flight, queued, stored or received after reset. -/
theorem resetMeetsTheInvariants : Obligations.ResetMeetsTheInvariants :=
  ⟨State.OpInv.after_reset State.reset,
    State.RegInv.after_reset (s := State.reset) Config.params_legal,
    ⟨rfl, rfl⟩,
    ⟨fun h => absurd rfl h, fun h => absurd rfl h⟩,
    fun h => absurd rfl h⟩

/-! ### The position registers -/

/-- A received byte that moves the position registers completes a valid notification (R236). -/
theorem rxByte_position (p : Params) (x : Byte) (b : Block) :
    (rxByte p x b).position = b.position ∨
    (b.rxState = .body ∧ x = EOP ∧ ∃ body, validContent b.rxBuf body ∧ notification (parse body) b) := by
  obtain ⟨hs, hx, body, hv, hb⟩ | hb := rxByte_completes_or_frame p x b
  · by_cases hn : notification (parse body) b
    · exact .inr ⟨hs, hx, body, hv, hn⟩
    · rw [← isPosition_iff_notification, Bool.not_eq_true] at hn
      exact .inl ((congrArg Block.position hb).trans (correlate_position hn))
  · exact .inl ((congrArg Block.position hb).trans rfl)

/-- A step leaves the position registers alone, resets the block, or completes a notification. -/
theorem step_position {s t : State} (hstep : step s = .next t) :
    t.blk.position = s.blk.position ∨ resets s ∨
      ∃ body, completesFrame s body ∧ notification (parse body) s.blk := by
  have checked : ∀ {b : Block}, b.position = s.blk.position →
      (completionCheck b).position = s.blk.position := fun {b} h =>
    (congrArg Block.position (completionCheck_frame b)).trans h
  have hb := (blockStep_of_next hstep).2
  generalize t.blk = b at hb ⊢
  cases hb with
  | same => exact .inl rfl
  | checked => exact .inl (checked rfl)
  | write v r =>
    exact .inl (checked ((congrArg Block.position (writeReg_frame s.params v s.blk r)).trans rfl))
  | host i hi => exact .inl (checked ((congrArg Block.position (hostEffect_frame hi rfl)).trans rfl))
  | rx x chan rest he hen hc =>
    obtain hp | ⟨hs, rfl, body, hv, hn⟩ := rxByte_position s.params x s.blk
    · exact .inl (checked hp)
    · exact .inr (.inr ⟨body, ⟨⟨rest, he⟩, hen, hs, ⟨chan, hc⟩, hv⟩, hn⟩)
  | tx x b ht => exact .inl (checked ((congrArg Block.position (txByte_frame ht)).trans rfl))
  | fstop => exact .inl (checked ((congrArg Block.position (forceStopOp_frame s.blk)).trans rfl))
  | reset hr => exact .inr (.inl hr)

/-- Settles O49: each of the seven fields is a part of Block.position. -/
theorem positionChangesOnlyByNotification : Obligations.PositionChangesOnlyByNotification := by
  intro s t hstep hchange
  refine (step_position hstep).resolve_left fun hsame => ?_
  simp only [Block.position, Prod.mk.injEq] at hsame
  obtain ⟨hx, hy, htoken, hxv, hyv, hfresh, hcount⟩ := hsame
  simp only [hx, hy, htoken, hxv, hyv, hfresh, hcount, ne_eq, not_true_eq_false, or_self] at hchange

/-! ### The registers -/

/-- Settles O9: each offset by its row of R33's table, each word by its fields. -/
theorem registersReadTheirFields : Obligations.RegistersReadTheirFields := by
  intro p b hp
  refine ⟨reads_of_mem (r := .id) (by decide) rfl,
    reads_of_mem (r := .ctrl) (by decide) (ctrlWord_toNat b),
    reads_of_mem (r := .cmd) (by decide) rfl,
    reads_of_mem (r := .opResult) (by decide) (opResultWord_toNat b),
    reads_of_mem (r := .irqEn) (by decide) b.irqEn.word_toNat,
    reads_of_mem (r := .notifySel) (by decide) (Packed.at_zero b.notifySel).toNat_eq,
    reads_of_mem (r := .txHdr) (by decide) rfl,
    reads_of_mem (r := .txAux) (by decide) (Packed.at_zero b.txAux).toNat_eq,
    reads_of_mem (r := .txPlen) (by decide) (Packed.at_zero b.txPlen).toNat_eq,
    fun i hi => ?_,
    reads_of_mem (r := .haltHdr) (by decide) rfl,
    reads_of_mem (r := .haltAux) (by decide) (Packed.at_zero b.haltAux).toNat_eq,
    reads_of_mem (r := .haltCfg) (by decide) (haltCfgWord_toNat b),
    fun i hi => ?_,
    reads_of_mem (r := .rxHdr) (by decide) rfl,
    reads_of_mem (r := .rxAux) (by decide) (Packed.at_zero b.rxAux).toNat_eq,
    reads_of_mem (r := .rxPlen) (by decide) (Packed.at_zero b.rxPlen).toNat_eq,
    fun i hi => ?_,
    reads_of_mem (r := .posX) (by decide) rfl,
    reads_of_mem (r := .posY) (by decide) rfl,
    reads_of_mem (r := .posInfo) (by decide) (posInfoWord_toNat b),
    reads_of_mem (r := .cntOk) (by decide) rfl,
    reads_of_mem (r := .cntCksum) (by decide) rfl,
    reads_of_mem (r := .cntShort) (by decide) rfl,
    reads_of_mem (r := .cntOvf) (by decide) rfl,
    reads_of_mem (r := .cntDrop) (by decide) rfl,
    reads_of_mem (r := .cntSkip) (by decide) rfl,
    reads_of_mem (r := .params) (by decide) (paramsWord_toNat hp),
    ?_⟩
  · rw [reads, regAt_txParam hp hi]
    exact (Packed.at_zero (b.txParam.read i)).toNat_eq
  · rw [reads, regAt_haltParam hp hi]
    exact (Packed.at_zero (b.haltParam.read i)).toNat_eq
  · rw [reads, regAt_rxPayload hi]
    simp only [readReg, apply_ite BitVec.toNat, (Packed.at_zero (b.rxPayload.getD i 0)).toNat_eq]
    rfl
  · have hw : readReg p b (regAt p 0x008) = statusWord b :=
      congrArg (readReg p b) (regAt_of_mem p (r := .status) (by decide))
    rw [hw]
    refine ⟨?_, ?_, ?_, ?_, ?_, ?_, ?_, ?_, ?_, ?_, ?_, fun k => statusWord_reserved b⟩
    · rw [← txBusy_iff, statusWord_getLsbD]; simp
    · rw [← haltBusy_iff, statusWord_getLsbD]; simp
    · rw [statusWord_getLsbD]; simp
    · rw [statusWord_stream]; cases b.stream <;> rfl
    all_goals rw [statusWord_getLsbD]; simp

/-- After reset every register but ID and PARAMS reads 0 (R33). -/
theorem readReg_reset (p : Params) {r : Reg} (hid : r ≠ .id) (hparams : r ≠ .params) :
    readReg p Block.reset r = 0 := by
  cases r with
  | id => exact absurd rfl hid
  | params => exact absurd rfl hparams
  | rxPayload i => simp [readReg, Block.reset]
  | _ => rfl

/-- Settles O14: ID and PARAMS are constants, every other register reads a field at its reset value. -/
theorem resetLeavesTheResetValues : Obligations.ResetLeavesTheResetValues := by
  refine ⟨fun p off hp _ => ?_, rfl, rfl, rfl, rfl, rfl, rfl, rfl, rfl, rfl, rfl, rfl, rfl, rfl, rfl⟩
  obtain ⟨hid, hparams⟩ := regAt_constants p off
  by_cases h0 : off = 0x000
  · rw [if_pos h0, hid.2 h0]; rfl
  rw [if_neg h0]
  by_cases h1 : off = 0x078
  · obtain ⟨-, hrx, -, htx, -⟩ := (Params.legal_iff p).1 hp
    rw [if_pos h1, hparams.2 h1]
    apply BitVec.eq_of_toNat_eq
    rw [BitVec.toNat_ofNat, show readReg p Block.reset .params = paramsWord p from rfl,
      paramsWord_toNat hp]
    omega
  · rw [if_neg h1]
    exact readReg_reset p (mt hid.1 h0) (mt hparams.1 h1)

/-- Settles O11: a reserved offset stands for no register. -/
theorem reservedOffsetsAreInert : Obligations.ReservedOffsetsAreInert := by
  intro s more rest off v hp ho hres hs
  have hr : regAt s.params off = .reserved := regAt_reserved hp hres
  constructor
  · intro h
    rw [step_read_of_settled h ho hs, hr]
    rfl
  · intro h
    rw [step_write_register h ho (by rw [hr]; nofun) (by rw [hr]; nofun) (by rw [hr]; nofun), hr,
      settle_of_unfinished]
    · rfl
    · exact hs

end Sys2Proof.Machine
end

section
/-! The host's accesses (20_memory.md sections 1, 2 and 4): the one outside the window, the one of wrong width
or alignment, the read and the poll. -/

open Sys2Proof.Statements

namespace Sys2Proof.Machine

/-! ### Outside the window -/

/-- Settles O5, from the inversion lemma of step. -/
theorem stepStopsOnlyOutsideTheWindow : Obligations.StepStopsOnlyOutsideTheWindow := by
  intro s
  obtain ⟨t, ht, -⟩ | ⟨off, hfault, ho, st, more, rest, hat, hacc⟩ := step_cases s
  · exact ⟨fun r h => (nomatch ht.symm.trans h), fun r h => (nomatch ht.symm.trans h)⟩
  · refine ⟨fun r h => (nomatch hfault.symm.trans h), fun r h => ?_⟩
    cases hfault.symm.trans h
    exact ⟨off, st, more, rest, ho, rfl, hat, hacc⟩

/-! ### Wrong width or alignment -/

/-- A statement whose access is of wrong width or alignment is answered with BusError, whether it reads,
writes or polls (R83). -/
theorem hostStmt_of_misaccess {st : HostStmt} {off : Nat} (ho : off < 0x1000)
    (hmis : misaccess st off) (s : State) :
    hostStmt st s = .done (.next (reply (.busError (s.params.base + off)) s)) := by
  have hin : ¬ 0x1000 ≤ off := Nat.not_le.2 ho
  have hbad : ∀ {n}, n ≠ 4 ∨ off % 4 ≠ 0 → ¬ accessOk off n = true := fun hn hok => by
    rw [accessOk_iff] at hok
    omega
  obtain ⟨n, rfl | ⟨v, rfl⟩, hn⟩ | ⟨⟨m, rfl | rfl⟩, hoff⟩ := hmis
  · rw [hostStmt, hostRead, if_neg hin, if_neg (hbad hn)]
  · rw [hostStmt, hostWrite, if_neg hin, if_neg (hbad hn)]
  · rw [hostStmt, hostPoll, if_neg hin, if_neg (hbad (.inr hoff))]
  · rw [hostStmt, hostPoll, if_neg hin, if_neg (hbad (.inr hoff))]

/-- Settles O6: the answer is all that the refused statement leaves behind. -/
theorem busErrorChangesNoRegister : Obligations.BusErrorChangesNoRegister := by
  intro s st more rest off ho hmis h
  rw [step_host h, hostStmt_of_misaccess ho hmis]
  rfl

/-! ### Reads and polls -/

theorem pollMet_false_iff (m v : Word) : pollMet false m v = true ↔ v &&& m ≠ 0 := by
  simp [pollMet]

theorem pollMet_true_iff (m v : Word) : pollMet true m v = true ↔ v &&& m = 0 := by
  simp [pollMet]

/-- One read of a poll, while no operation is left to complete, only answers (R88, R130). -/
theorem step_poll_of_settled {s : State} {zero : Bool} {off : Nat} {m : Word}
    {more : List HostStmt} {rest : List Event} (h : hostNext (pollStmt zero off m) more rest s)
    (ho : alignedOffset off) (hs : settled s.blk) :
    step s = .next (answered (.data off (readReg s.params s.blk (regAt s.params off)))
      (if pollMet zero m (readReg s.params s.blk (regAt s.params off)) then more
        else pollStmt zero off m :: more) s.blk rest s) := by
  rw [step_poll h ho.2 ho.1, settle_of_unfinished]
  · rfl
  · exact hs

/-- Settles O7: a poll and a pollz are one read each, and their conditions are each other's negation. -/
theorem readHasNoSideEffect : Obligations.ReadHasNoSideEffect := by
  intro s more rest off m ho hs v
  refine ⟨fun h => step_read_of_settled h ho hs, fun h => ?_, fun h => ?_⟩
  · rw [step_poll_of_settled (zero := false) h ho hs]
    simp only [pollMet_false_iff]
    rfl
  · rw [step_poll_of_settled (zero := true) h ho hs]
    simp only [pollMet_true_iff]
    rfl

end Sys2Proof.Machine
end

section
/-! The encodings (30_encoding.md): the fields of a CMD word, and the bytes of a serialised header. -/

namespace Sys2Proof.Machine

/-- A field is determined by arithmetic on the number of the word it is taken from (R13). -/
theorem extractLsb'_eq_of_toNat {n m : Nat} {v : BitVec n} {x : BitVec m} (k : Nat)
    (h : v.toNat / 2 ^ k % 2 ^ m = x.toNat) : v.extractLsb' k m = x := by
  apply BitVec.eq_of_toNat_eq
  rw [BitVec.extractLsb'_toNat, Nat.shiftRight_eq_div_pow, h]

/-! ### A CMD word -/

theorem cmdOp_toNat (w : Word) : (cmdOp w).toNat = w.toNat % 16 := by
  simp [cmdOp]

theorem cmdSclass_eq_ofNat (w : Word) : cmdSclass w = BitVec.ofNat 3 (w.toNat / 16) :=
  extractLsb'_eq_of_toNat 4 (BitVec.toNat_ofNat _ _).symm

theorem cmdEcid_eq_ofNat (w : Word) : cmdEcid w = BitVec.ofNat 8 (w.toNat / 256) :=
  extractLsb'_eq_of_toNat 8 (BitVec.toNat_ofNat _ _).symm

/-- The low bits of a CMD word: the part of the OP that a RESERVED_OP row of several OPs keeps. -/
theorem lowBits_eq_ofNat (w : Word) (m : Nat) : w.extractLsb' 0 m = BitVec.ofNat m w.toNat :=
  extractLsb'_eq_of_toNat 0 (by simp)

/-- Settles O2: each row's OP is one case of decodeCmd, and each field read is a quotient of the word. -/
theorem cmdWordReadsOnlyItsFields : Obligations.CmdWordReadsOnlyItsFields := by
  intro w
  simp only [← cmdOp_toNat, ← cmdSclass_eq_ofNat, ← cmdEcid_eq_ofNat, ← lowBits_eq_ofNat]
  refine congrArg Except.ok ?_
  unfold decodeCmd
  split
  case h_9 h0 h1 h2 h3 h4 h5 h6 h7 =>
    simp only [imp_false] at h0 h1 h2 h3 h4 h5 h6 h7
    have hop : ¬ (cmdOp w).toNat < 8 := by omega
    simp [h0, h1, h2, h3, h4, h5, hop]
  all_goals next hop => simp [hop]

/-! ### The header -/

theorem hdr_length (h : Word) (a : BitVec 24) : (hdr h a).length = hlen (hdrFlags h) := by
  have optional : ∀ (p : Bool) (x : Byte), (if p then [x] else []).length = p.toNat := by
    intro p x; cases p <;> rfl
  simp only [hdr, hlen, List.length_append, optional, List.length_cons, List.length_nil]
  omega

theorem hlen_bounds (f : Byte) : 4 ≤ hlen f ∧ hlen f ≤ 7 := by
  have ht := Bool.toNat_le (hasTargetId f)
  have hs := Bool.toNat_le (hasSourceId f)
  have hr := Bool.toNat_le (isResponse f)
  unfold hlen
  omega

/-- The four bytes of a header word, from bit 0 up (R41, R45). -/
theorem hdr_fields_of_toNat {h : Word} {f d c q : Byte}
    (hh : h.toNat = f.toNat + d.toNat * 2 ^ 8 + c.toNat * 2 ^ 16 + q.toNat * 2 ^ 24) :
    hdrFlags h = f ∧ hdrDid h = d ∧ hdrCid h = c ∧ hdrSeq h = q := by
  have hf := f.isLt
  have hd := d.isLt
  have hc := c.isLt
  have hq := q.isLt
  refine ⟨extractLsb'_eq_of_toNat 0 ?_, extractLsb'_eq_of_toNat 8 ?_,
    extractLsb'_eq_of_toNat 16 ?_, extractLsb'_eq_of_toNat 24 ?_⟩ <;> omega

/-- The three bytes of a descriptor's AUX, from bit 0 up (R42, R46). -/
theorem aux_fields_of_toNat {a : BitVec 24} {t r e : Byte}
    (ha : a.toNat = t.toNat + r.toNat * 2 ^ 8 + e.toNat * 2 ^ 16) :
    auxTid a = t ∧ auxSid a = r ∧ auxErr a = e := by
  have ht := t.isLt
  have hr := r.isLt
  have he := e.isLt
  refine ⟨extractLsb'_eq_of_toNat 0 ?_, extractLsb'_eq_of_toNat 8 ?_,
    extractLsb'_eq_of_toNat 16 ?_⟩ <;> omega

/-- Settles O26: the fields of both words are the given bytes, and hdr places them in R111's order. -/
theorem headerLayout : Obligations.HeaderLayout := by
  intro f d c q t r e h a hh ha
  obtain ⟨rfl, rfl, rfl, rfl⟩ := hdr_fields_of_toNat hh
  obtain ⟨rfl, rfl, rfl⟩ := aux_fields_of_toNat ha
  exact ⟨rfl, hdr_length h a, rfl, hlen_bounds _⟩

end Sys2Proof.Machine
end

section
/-! The operation in flight and the pending wait (40_host_ops.md section 1): what one step can make of them,
and when each of them ends. -/

open Sys2Proof.Statements

namespace Sys2Proof.Machine

/-! ### The operation in flight -/

/-- The operation goes on from b to b': one in flight stays, and DONE with it stays clear; one that begins
finds DONE clear. -/
structure Block.Continues (b b' : Block) : Prop where
  stays : b.curOp ≠ .none → b'.curOp = b.curOp ∧ (b.ev.done = false → b'.ev.done = false)
  begins : b.curOp = .none → b'.curOp ≠ .none → b'.ev.done = false

/-- What neither starts nor ends an operation, nor sets DONE in flight, lets it go on. -/
theorem Block.Continues.of_curOp {b b' : Block} (hcur : b'.curOp = b.curOp)
    (hdone : b.curOp ≠ .none → b.ev.done = false → b'.ev.done = false) : b.Continues b' where
  stays hne := ⟨hcur, hdone hne⟩
  begins hn hne := absurd (hcur.trans hn) hne

/-- An operation that is admitted finds none in flight, and DONE cleared by the CMD write (R144). -/
theorem Block.Continues.of_admitted {b b' : Block} (hnone : b.curOp = .none)
    (hdone : b'.ev.done = false) : b.Continues b' where
  stays h := absurd hnone h
  begins _ _ := hdone

/-- No instruction of the host but the soft reset ends the operation in flight or the pending wait, and
CLEAR_COUNTERS sets DONE only when no operation is in flight (R154, R156). -/
theorem hostEffect_continues {i : Instr} (hi : i ≠ .softReset) (b : Block) :
    b.Continues (hostEffect i b) ∧ (b.waiting = true → (hostEffect i b).waiting = true) := by
  cases i with
  | softReset => exact absurd rfl hi
  | send sclass =>
    change b.Continues (sendOp sclass (beginOp b)) ∧
      (_ → (sendOp sclass (beginOp b)).waiting = true)
    obtain ⟨code, h⟩ | ⟨cls, -, hc, h⟩ := sendOp_cases sclass (beginOp b) <;> rw [h]
    · exact ⟨.of_curOp rfl fun _ _ => rfl, id⟩
    · exact ⟨.of_admitted hc rfl, id⟩
  | sendWait sclass ecid =>
    change b.Continues (sendWaitOp sclass ecid (beginOp b)) ∧
      (_ → (sendWaitOp sclass ecid (beginOp b)).waiting = true)
    obtain ⟨code, h⟩ | ⟨cls, -, hc, h⟩ := sendWaitOp_cases sclass ecid (beginOp b) <;> rw [h]
    · exact ⟨.of_curOp rfl fun _ _ => rfl, id⟩
    · exact ⟨.of_admitted hc rfl, fun _ => rfl⟩
  | wait ecid =>
    change b.Continues (waitOp ecid (beginOp b)) ∧ (_ → (waitOp ecid (beginOp b)).waiting = true)
    obtain ⟨code, h⟩ | ⟨-, hc, h⟩ := waitOp_cases ecid (beginOp b) <;> rw [h]
    · exact ⟨.of_curOp rfl fun _ _ => rfl, id⟩
    · exact ⟨.of_admitted hc rfl, fun _ => rfl⟩
  | clearCounters =>
    change b.Continues (clearCountersOp (beginOp b)) ∧
      (_ → (clearCountersOp (beginOp b)).waiting = true)
    obtain h | ⟨hc, h⟩ := clearCountersOp_cases (beginOp b) <;> rw [h]
    · exact ⟨.of_curOp rfl fun _ _ => rfl, id⟩
    · exact ⟨.of_curOp rfl fun hne => absurd hc hne, id⟩
  | statusW1c mask => exact ⟨.of_curOp rfl fun _ h => by simp [hostEffect, clearEvents, h], id⟩
  | reservedOp5 | reservedOp6 | reservedOp8 => exact ⟨.of_curOp rfl fun _ _ => rfl, id⟩
  | _ => exact ⟨.of_curOp rfl fun _ => id, id⟩

/-- The correlator leaves DONE and the operation to the completion check (R153, R230). -/
theorem correlate_curOp_done (f : RxFrame) (b : Block) :
    (correlate f b).curOp = b.curOp ∧ (correlate f b).ev.done = b.ev.done := by
  obtain ⟨-, -, h⟩ | ⟨-, -, h⟩ | ⟨-, -, h⟩ | ⟨-, -, h⟩ := correlate_cases f b <;> rw [h] <;>
    exact ⟨rfl, rfl⟩

theorem appendByte_curOp_done (p : Params) (v : Byte) (b : Block) :
    (appendByte p v b).curOp = b.curOp ∧ (appendByte p v b).ev.done = b.ev.done := by
  obtain ⟨-, h⟩ | ⟨-, h⟩ := appendByte_cases p v b <;> rw [h] <;> exact ⟨rfl, rfl⟩

theorem processFrame_curOp_done (buf : List Byte) (b : Block) :
    (processFrame buf b).curOp = b.curOp ∧ (processFrame buf b).ev.done = b.ev.done := by
  obtain ⟨h, -⟩ | ⟨h, -⟩ | ⟨body, -, -, -, h⟩ := processFrame_cases buf b <;> rw [h]
  · exact ⟨rfl, rfl⟩
  · exact ⟨rfl, rfl⟩
  · exact correlate_curOp_done _ _

/-- A received byte leaves DONE and the operation to the completion check. -/
theorem rxByte_curOp_done (p : Params) (x : Byte) (b : Block) :
    (rxByte p x b).curOp = b.curOp ∧ (rxByte p x b).ev.done = b.ev.done := by
  obtain ⟨-, -, h⟩ | ⟨-, -, h⟩ | ⟨-, -, h⟩ | ⟨-, -, h⟩ | ⟨-, -, -, h⟩ | ⟨-, h⟩ :=
    rxByte_cases p x b <;> rw [h]
  · exact ⟨rfl, rfl⟩
  · exact ⟨rfl, rfl⟩
  · exact processFrame_curOp_done b.rxBuf b
  · exact ⟨rfl, rfl⟩
  · exact appendByte_curOp_done p x b
  · exact appendByte_curOp_done p _ { b with rxState := .body }

theorem forceStopOp_curOp_done (b : Block) :
    (forceStopOp b).curOp = b.curOp ∧ (forceStopOp b).ev.done = b.ev.done := by
  obtain ⟨-, -, h⟩ | ⟨-, h⟩ := forceStopOp_cases b <;> rw [h] <;> exact ⟨rfl, rfl⟩

/-- What a step makes of the operation in flight: it leaves the block, resets it, or lets the operation go on
and then makes the completion check (R153). -/
theorem step_operation {s t : State} (hstep : step s = .next t) :
    t.blk = s.blk ∨ (resets s ∧ t.blk = Block.reset) ∨
      ∃ b, s.blk.Continues b ∧ t.blk = completionCheck b := by
  have goesOn : ∀ {b : Block}, b.curOp = s.blk.curOp ∧ b.ev.done = s.blk.ev.done →
      s.blk.Continues b := fun ⟨hcur, hdone⟩ => .of_curOp hcur fun _ => hdone.trans
  have hb := (blockStep_of_next hstep).2
  generalize t.blk = b at hb ⊢
  cases hb with
  | same => exact .inl rfl
  | reset hr => exact .inr (.inl ⟨hr, rfl⟩)
  | checked => exact .inr (.inr ⟨_, goesOn ⟨rfl, rfl⟩, rfl⟩)
  | write v r =>
    exact .inr (.inr ⟨_, goesOn (by rw [writeReg_frame]; exact ⟨rfl, rfl⟩), rfl⟩)
  | host i hi => exact .inr (.inr ⟨_, (hostEffect_continues hi s.blk).1, rfl⟩)
  | rx x => exact .inr (.inr ⟨_, goesOn (rxByte_curOp_done s.params x s.blk), rfl⟩)
  | tx x b ht =>
    exact .inr (.inr ⟨_, goesOn (by rw [txByte_frame ht]; exact ⟨rfl, rfl⟩), rfl⟩)
  | fstop => exact .inr (.inr ⟨_, goesOn (forceStopOp_curOp_done s.blk), rfl⟩)

/-- The operation still waits for something exactly when the completion check has nothing to do. -/
theorem flightInv_iff (s : State) :
    s.FlightInv ↔ s.blk.unfinished ∧ (s.blk.curOp ≠ .none → s.blk.ev.done = false) := by
  have hbusy : s.blk.unfinished ↔
      (s.blk.curOp ≠ .none → s.blk.txBusy = true ∨ s.blk.waiting = true) := by
    rw [txBusy_iff, or_assoc]
    exact Iff.rfl
  rw [hbusy]
  exact ⟨fun h => ⟨h.in_flight, h.done_zero⟩, fun ⟨hflight, hdone⟩ => ⟨hflight, hdone⟩⟩

/-- Going on keeps DONE at 0 for as long as an operation is in flight. -/
theorem Block.Continues.done_zero {b b' : Block} (h : b.Continues b')
    (hb : b.curOp ≠ .none → b.ev.done = false) (hne : b'.curOp ≠ .none) : b'.ev.done = false := by
  by_cases hc : b.curOp = .none
  · exact h.begins hc hne
  · exact (h.stays hc).2 (hb hc)

/-- Settles O57: the completion check ends what waits for nothing, and it alone sets DONE in flight. -/
theorem stepKeepsFlightInv : Obligations.StepKeepsFlightInv := by
  intro s t h hstep
  rw [flightInv_iff] at h ⊢
  obtain ⟨hunfinished, hdone⟩ := h
  obtain hsame | ⟨-, hreset⟩ | ⟨b, hgoes, hcheck⟩ := step_operation hstep
  · rw [hsame]
    exact ⟨hunfinished, hdone⟩
  · rw [hreset]
    exact ⟨fun hne => absurd rfl hne, fun hne => absurd rfl hne⟩
  · rw [hcheck]
    refine ⟨completionCheck_unfinished b, ?_⟩
    obtain ⟨-, -, -, -, -, hc⟩ | ⟨-, hc⟩ := completionCheck_cases b <;> rw [hc]
    · exact fun hne => absurd rfl hne
    · exact hgoes.done_zero hdone

/-- Settles O52: an operation that goes on is ended only by the completion check. -/
theorem operationEndsWithDone : Obligations.OperationEndsWithDone := by
  intro s t hstep hflight hended
  obtain hsame | ⟨hr, -⟩ | ⟨b, hgoes, hcheck⟩ := step_operation hstep
  · exact absurd (hsame ▸ hended) hflight
  · exact .inl hr
  · rw [hcheck] at hended ⊢
    obtain ⟨-, -, hhost, htx, hwait, hc⟩ | ⟨-, hc⟩ := completionCheck_cases b <;>
      rw [hc] at hended ⊢
    · exact .inr ⟨rfl, hhost, htx, hwait⟩
    · exact absurd ((hgoes.stays hflight).1.symm.trans hended) hflight

/-! ### The pending wait -/

/-- A received byte leaves a pending wait, or completes a valid frame with the expected CID (R230). -/
theorem rxByte_waiting (p : Params) (x : Byte) (b : Block) :
    (rxByte p x b).waiting = b.waiting ∨
    (b.rxState = .body ∧ x = EOP ∧ ∃ body, validContent b.rxBuf body ∧
      (parse body).cid = b.expectCid) := by
  obtain ⟨hs, hx, body, hv, hb⟩ | hb := rxByte_completes_or_frame p x b
  · obtain ⟨hm, -⟩ | ⟨-, -, -, hop⟩ := correlate_capture (parse body)
      { b with cnt := { b.cnt with ok := b.cnt.ok + 1 } }
    · simp only [isMatch, Bool.and_eq_true, beq_iff_eq] at hm
      obtain ⟨-, hcid⟩ := hm
      exact .inr ⟨hs, hx, body, hv, hcid⟩
    · simp only [Block.opState, Prod.mk.injEq] at hop
      obtain ⟨-, -, hwait, -⟩ := hop
      exact .inl ((congrArg Block.waiting hb).trans hwait)
  · exact .inl ((congrArg Block.waiting hb).trans rfl)

/-- Settles O47: of all that a step can do only a reset and a matching reply clear `waiting`. -/
theorem onlyReplyOrResetEndsAWait : Obligations.OnlyReplyOrResetEndsAWait := by
  intro s t hstep hbefore hafter
  have kept : ∀ {b : Block}, b.waiting = true → (completionCheck b).waiting ≠ false := fun {b} h => by
    rw [completionCheck_frame b]
    simp [h]
  have hb := (blockStep_of_next hstep).2
  generalize t.blk = b at hb hafter
  cases hb with
  | same => exact absurd (hbefore.symm.trans hafter) nofun
  | checked => exact absurd hafter (kept hbefore)
  | write v r =>
    have hw := congrArg Block.waiting (writeReg_frame s.params v s.blk r)
    exact absurd hafter (kept (hw.trans hbefore))
  | host i hi => exact absurd hafter (kept ((hostEffect_continues hi s.blk).2 hbefore))
  | rx x chan rest he hen hc =>
    obtain hw | ⟨hs, rfl, body, hv, hcid⟩ := rxByte_waiting s.params x s.blk
    · exact absurd hafter (kept (hw.trans hbefore))
    · exact .inr ⟨body, ⟨⟨rest, he⟩, hen, hs, ⟨chan, hc⟩, hv⟩, hcid⟩
  | tx x b ht =>
    exact absurd hafter (kept ((congrArg Block.waiting (txByte_frame ht)).trans hbefore))
  | fstop =>
    exact absurd hafter (kept ((congrArg Block.waiting (forceStopOp_frame s.blk)).trans hbefore))
  | reset hr => exact .inl hr

end Sys2Proof.Machine
end

section
/-! The host's writes that start nothing (40_host_ops.md R160, R161): which registers store a field, and which
ignore the word. -/

open Sys2Proof.Statements

namespace Sys2Proof.Machine

/-! ### Registers that a write stores to -/

/-- A write to the register starts no operation: it is none of CMD, CTRL and STATUS (R89). -/
def Reg.startsNothing : Reg → Bool
  | .cmd | .ctrl | .status => false
  | _ => true

theorem Reg.startsNothing_iff (r : Reg) :
    r.startsNothing = true ↔ r ≠ .cmd ∧ r ≠ .ctrl ∧ r ≠ .status := by
  cases r <;> simp [Reg.startsNothing]

/-- A register write leaves the operation in flight what it waits for. -/
theorem writeReg_unfinished {b : Block} (h : b.unfinished) (p : Params) (v : Word) (r : Reg) :
    (writeReg p v b r).unfinished := by
  rw [writeReg_frame]
  exact h

/-- A write to a register that starts nothing, while no operation is left to complete, stores its fields and
changes nothing else (R89, R160). -/
theorem step_write_of_settled {s : State} {off : Nat} {v : Word} {more : List HostStmt}
    {rest : List Event} (h : hostNext (.wr off 4 v) more rest s) (hs : settled s.blk)
    (ho : alignedOffset off) {r : Reg} (hr : regAt s.params off = r) (hstart : r.startsNothing = true) :
    step s = .next (wrote off (writeReg s.params v s.blk r) more rest s) := by
  subst hr
  obtain ⟨hcmd, hctrl, hstatus⟩ := (Reg.startsNothing_iff _).1 hstart
  rw [step_write_register h ho hcmd hctrl hstatus, settle_of_unfinished]
  exact writeReg_unfinished hs s.params v _

theorem alignedOffset_of_mem {off : Nat} {r : Reg} (h : (off, r) ∈ namedRegs) :
    alignedOffset off := by
  have hall : ∀ c ∈ namedRegs, c.1 % 4 = 0 ∧ c.1 < 0x1000 := by decide
  exact hall _ h

/-- The word of IRQ_EN after a write is the written word's bits 13:8 (R39). -/
theorem EventBits.word_ofBits_extract (v : Word) :
    (EventBits.ofBits (v.extractLsb' 8 6)).word = v &&& 0x3F00#32 := by
  apply BitVec.eq_of_getLsbD_eq
  intro k hk
  simp only [EventBits.word, EventBits.ofBits, BitVec.getLsbD_or, getLsbD_flag,
    BitVec.getLsbD_extractLsb', BitVec.getLsbD_and]
  interval_cases k <;> simp

/-- Settles O13: R33's table gives the register at the offset, writeReg its fields, and the byte windows read
back what was written in the slot alone. -/
theorem registerWritesStoreTheirFields : Obligations.RegisterWritesStoreTheirFields := by
  intro s more rest off v hp hmem hs h
  obtain ⟨-, -, -, htx, -⟩ := (Params.legal_iff s.params).1 hp
  have named : ∀ {r : Reg}, (off, r) ∈ namedRegs → r.startsNothing = true →
      step s = .next (wrote off (writeReg s.params v s.blk r) more rest s) :=
    fun hr => step_write_of_settled h hs (alignedOffset_of_mem hr) (regAt_of_mem s.params hr)
  refine ⟨?_, ?_, ?_, ?_, ?_, ?_, ?_, ?_, ?_, ?_⟩
  · rintro rfl
    exact ⟨_, named (r := .irqEn) (by decide) rfl, EventBits.word_ofBits_extract v⟩
  · rintro rfl
    rw [← lowBits_eq_ofNat]
    exact named (r := .notifySel) (by decide) rfl
  · rintro rfl
    exact named (r := .txHdr) (by decide) rfl
  · rintro rfl
    rw [← lowBits_eq_ofNat]
    exact named (r := .txAux) (by decide) rfl
  · rintro rfl
    rw [named (r := .txPlen) (by decide) rfl, writeReg, lowBits_eq_ofNat, BitVec.toNat_ofNat]
  · rintro rfl
    exact named (r := .haltHdr) (by decide) rfl
  · rintro rfl
    rw [← lowBits_eq_ofNat]
    exact named (r := .haltAux) (by decide) rfl
  · rintro rfl
    rw [named (r := .haltCfg) (by decide) rfl, writeReg, lowBits_eq_ofNat, BitVec.toNat_ofNat]
    rfl
  · rintro i hi rfl
    refine ⟨s.blk.txParam.write i (v.extractLsb' 0 8), ?_, ?_, fun j hj => ?_⟩
    · exact step_write_of_settled h hs ⟨by omega, by omega⟩ (regAt_txParam hp hi) rfl
    · rw [Memory.read_write_same i _ hmem.txParam_wf, lowBits_eq_ofNat]
    · exact Memory.read_write_other hj _ hmem.txParam_wf
  · rintro i hi rfl
    refine ⟨s.blk.haltParam.write i (v.extractLsb' 0 8), ?_, ?_, fun j hj => ?_⟩
    · exact step_write_of_settled h hs ⟨by omega, by omega⟩ (regAt_haltParam hp hi) rfl
    · rw [Memory.read_write_same i _ hmem.haltParam_wf, lowBits_eq_ofNat]
    · exact Memory.read_write_other hj _ hmem.haltParam_wf

/-! ### Registers that ignore a write -/

/-- The RO registers (R161). -/
def Reg.readOnly : Reg → Bool
  | .id | .opResult | .rxHdr | .rxAux | .rxPlen | .posX | .posY | .posInfo | .cntOk | .cntCksum
  | .cntShort | .cntOvf | .cntDrop | .cntSkip | .params | .rxPayload _ => true
  | _ => false

theorem writeReg_of_readOnly {r : Reg} (h : r.readOnly = true) (p : Params) (v : Word) (b : Block) :
    writeReg p v b r = b := by
  cases r with
  | irqEn | notifySel | txHdr | txAux | txPlen | haltHdr | haltAux | haltCfg | txParam | haltParam =>
    cases h
  | _ => rfl

theorem Reg.startsNothing_of_readOnly {r : Reg} (h : r.readOnly = true) :
    r.startsNothing = true := by
  rw [Reg.startsNothing_iff]
  refine ⟨?_, ?_, ?_⟩ <;> rintro rfl <;> cases h

/-- R161's offsets are those of the RO registers. -/
theorem regAt_readOnly {p : Params} {off : Nat} (ha : off % 4 = 0) (h : readOnlyOffset p off) :
    (regAt p off).readOnly = true := by
  obtain hlist | ⟨hlo, hhi⟩ := h
  · have hnamed : ∀ o ∈ [0x000, 0x010, 0x040, 0x044, 0x048, 0x050, 0x054, 0x058, 0x060, 0x064, 0x068,
        0x06C, 0x070, 0x074, 0x078], ∃ c ∈ namedRegs, c.1 = o ∧ c.2.readOnly = true := by decide
    obtain ⟨⟨o, r⟩, hmem, rfl, hr⟩ := hnamed off hlist
    rw [regAt_of_mem p hmem]
    exact hr
  · obtain ⟨i, rfl⟩ : ∃ i, off = 0x400 + 4 * i := ⟨(off - 0x400) / 4, by omega⟩
    rw [regAt_rxPayload (by omega)]
    rfl

/-- Settles O12: no RO register stores a field, and a reserved offset is no register. -/
theorem readOnlyRegistersIgnoreWrites : Obligations.ReadOnlyRegistersIgnoreWrites := by
  intro s more rest off v hp ho hro hs h
  obtain hro | hres := hro
  · have hr : (regAt s.params off).readOnly = true := regAt_readOnly ho.1 hro
    rw [step_write_of_settled h hs ho rfl (Reg.startsNothing_of_readOnly hr),
      writeReg_of_readOnly hr]
  · exact (reservedOffsetsAreInert s more rest off v hp ho hres hs).2 h

/-! ### STATUS -/

/-- Outside bits 13:8 the STATUS word does not show the events (R36). -/
theorem statusWord_of_ev (b : Block) (e : EventBits) {k : Nat} (hk : ¬ (8 ≤ k ∧ k ≤ 13)) :
    (statusWord { b with ev := e }).getLsbD k = (statusWord b).getLsbD k := by
  have h : k ≠ 8 ∧ k ≠ 9 ∧ k ≠ 10 ∧ k ≠ 11 ∧ k ≠ 12 ∧ k ≠ 13 := by omega
  rw [statusWord_getLsbD, statusWord_getLsbD]
  simp only [h, decide_false, Bool.false_and, Bool.or_false]
  rfl

/-- Bits 13:8 of STATUS after a W1C write: those that were 1 and are not written as 1 (R159). -/
theorem statusWord_clearEvents (v : Word) (b : Block) {k : Nat} (hk : 8 ≤ k ∧ k ≤ 13) :
    (statusWord { b with ev := clearEvents (v.extractLsb' 8 6) b.ev }).getLsbD k =
      ((statusWord b).getLsbD k && !v.getLsbD k) := by
  obtain ⟨hlo, hhi⟩ := hk
  rw [statusWord_getLsbD, statusWord_getLsbD]
  interval_cases k <;> simp [clearEvents]

/-- Settles O24: the W1C mask is bits 13:8 of the written word. -/
theorem statusWriteClearsWrittenOnes : Obligations.StatusWriteClearsWrittenOnes := by
  intro v s
  refine ⟨v.extractLsb' 8 6, clearEvents (v.extractLsb' 8 6) s.blk.ev, rfl, rfl, fun k => ?_⟩
  change (statusWord { s.blk with ev := clearEvents (v.extractLsb' 8 6) s.blk.ev }).getLsbD k =
    ((statusWord s.blk).getLsbD k && _)
  by_cases hk : 8 ≤ k ∧ k ≤ 13
  · rw [statusWord_clearEvents v s.blk hk, decide_eq_true hk, Bool.true_and]
  · rw [statusWord_of_ev s.blk _ hk, decide_eq_false hk, Bool.false_and, Bool.not_false,
      Bool.and_true]

end Sys2Proof.Machine
end

section
/-! The host's instructions (40_host_ops.md R140 to R158): how a CMD or CTRL word is run, and the exact state
that each instruction leaves, refused or admitted. -/

open Sys2Proof.Statements

namespace Sys2Proof.Machine

/-! ### The step of an instruction -/

/-- The model's completion check is R153's, written out. -/
theorem settle_eq_completed (s : State) : s.settle = completed s := by
  unfold completed
  obtain ⟨-, hcur, hhost, htx, hwait, hc⟩ | ⟨hu, hc⟩ := completionCheck_cases s.blk <;>
    rw [State.settle, hc]
  · rw [if_pos ⟨hcur, hhost, htx, hwait⟩]
  · refine (if_neg ?_).symm
    rintro ⟨hcur, hhost, htx, hwait⟩
    obtain h | h | h := hu hcur
    · exact h hhost
    · exact htx h
    · rw [hwait] at h
      cases h

theorem settleOutcome_eq_completedOutcome (o : Host.Outcome State Fault Refusal) :
    settleOutcome o = completedOutcome o := by
  cases o with
  | next s => exact congrArg _ (settle_eq_completed s)
  | fault r => rfl
  | refused r => rfl

/-- Bits that decode to i run as i and the completion check. -/
theorem runTurn_present {f : Fetched} {i : Instr} (h : decode f = .ok i) (s : State) :
    runTurn (.present f s) = completedOutcome (exec i s) := by
  rw [← settleOutcome_eq_completedOutcome, runTurn, h]

theorem rxFetched_eq (st : RxState) (x : Byte) :
    rxFetched st x = if st = .esc then .pair ESC x else .wire x := by
  cases st <;> rfl

/-- Settles O4: each port presents its bits, and runTurn runs what they decode to. -/
theorem stepRunsTheDecodedInstruction : Obligations.StepRunsTheDecodedInstruction := by
  intro s more rest
  refine ⟨fun off v i h hd => ?_, fun x chan i he hen hc hd => ?_, fun he hpin => ?_⟩
  · obtain ⟨rfl, hd⟩ | ⟨rfl, hd⟩ | ⟨rfl, hd⟩ := hd
    · rw [step_write h (by decide) (by decide), regAt_of_mem _ (r := .cmd) (by decide)]
      exact runTurn_present hd _
    · rw [step_write h (by decide) (by decide), regAt_of_mem _ (r := .ctrl) (by decide)]
      exact runTurn_present hd _
    · rw [step_write h (by decide) (by decide), regAt_of_mem _ (r := .status) (by decide)]
      exact runTurn_present hd _
  · have hturn : eventTurn .rx (s.popped rest) = .present (rxFetched s.blk.rxState x)
        { s with env := { s.env with events := rest, rxChan := chan } } := by
      simp only [eventTurn, rxTurn, State.popped_blk, State.popped_rxChan, hen, hc, if_true]
      rfl
    rw [← rxFetched_eq] at hd
    rw [step_event he, hturn, runTurn_present hd]
  · have hturn : eventTurn (.forceStop true) (s.popped rest) = .present (.line 1#1)
        { s with env := { s.env with events := rest, fstopPin := true } } := by
      simp only [eventTurn, forceStopTurn, State.popped_fstopPin, hpin]
      rfl
    rw [step_event he, hturn, runTurn_present rfl]

/-! ### The admission checks (R145) -/

theorem sclassOf_of_lt : ∀ {sclass : BitVec 3}, sclass.toNat < 4 →
    sclassOf sclass = some (className sclass.toNat) := by decide

theorem sclassOf_of_ge : ∀ {sclass : BitVec 3}, 4 ≤ sclass.toNat → sclassOf sclass = none := by
  decide

/-- The model's stream guard is R244's table. -/
theorem streamCheck_className (n : Nat) (st : StreamState) :
    streamCheck (className n) st = guardCode n st := by
  match n with
  | 0 => cases st <;> rfl
  | 1 => cases st <;> rfl
  | 2 => cases st <;> rfl
  | 3 => cases st <;> rfl
  | n + 4 => rfl

/-- Check 2: ENABLE. -/
theorem readyCheck_of_disabled {b : Block} (h : b.enable = false) : readyCheck b = .notReady :=
  if_pos h

/-- Check 3: an operation in flight. -/
theorem readyCheck_of_inFlight {b : Block} (he : b.enable = true) (hc : b.curOp ≠ .none) :
    readyCheck b = .busy := by
  rw [readyCheck, he, if_neg nofun, if_pos hc]

theorem readyCheck_of_idle {b : Block} (he : b.enable = true) (hc : b.curOp = .none) :
    readyCheck b = .ok := by
  rw [readyCheck, he, if_neg nofun, if_neg (not_not.2 hc)]

/-- Check 1: a reserved class is refused before anything else is looked at. -/
theorem admission_of_badClass {sclass : BitVec 3} (h : 4 ≤ sclass.toNat) (b : Block) :
    admission sclass b = .error .badClass := by
  rw [admission, sclassOf_of_ge h]

/-- Checks 2 and 3 come before the stream guard. -/
theorem admission_of_notReady {sclass : BitVec 3} (h : sclass.toNat < 4) {b : Block}
    (hr : readyCheck b ≠ .ok) : admission sclass b = .error (readyCheck b) := by
  rw [admission, sclassOf_of_lt h]
  cases hc : readyCheck b with
  | ok => exact absurd hc hr
  | _ => rfl

/-- Check 4, the stream guard: hg rules out the branch that admits. -/
theorem admission_of_guard {sclass : BitVec 3} (h : sclass.toNat < 4) {b : Block}
    (hr : readyCheck b = .ok) (hg : guardCode sclass.toNat b.stream ≠ .ok) :
    admission sclass b = .error (guardCode sclass.toNat b.stream) := by
  rw [admission, sclassOf_of_lt h]
  simp only [hr, streamCheck_className]

/-- All four checks passed. -/
theorem admission_of_ok {sclass : BitVec 3} (h : sclass.toNat < 4) {b : Block}
    (hr : readyCheck b = .ok) (hg : guardCode sclass.toNat b.stream = .ok) :
    admission sclass b = .ok (className sclass.toNat) := by
  rw [admission, sclassOf_of_lt h]
  simp only [hr, streamCheck_className, hg]

/-! ### Refused -/

/-- fail after the CMD write's clearing of DONE and OP_FAIL (R144, R148). -/
theorem withBlk_fail_beginOp (code : ResultCode) (op : BitVec 4) (s : State) :
    s.withBlk (fail code op (beginOp s.blk)) = refusedState code op s := rfl

/-- SEND and SEND_WAIT alike record the code of the check that failed. -/
theorem exec_sendForm_of_error {i : Instr} {sclass : BitVec 3} {op : BitVec 4}
    (hi : isSendForm i sclass op) {s : State} {code : ResultCode}
    (ha : admission sclass (beginOp s.blk) = .error code) :
    exec i s = .next (refusedState code op s) := by
  obtain ⟨rfl, rfl⟩ | ⟨ecid, rfl, rfl⟩ := hi <;> rw [exec_host rfl, ← withBlk_fail_beginOp]
  · rw [hostEffect, sendOp, ha]
  · rw [hostEffect, sendWaitOp, ha]

theorem exec_wait_of_notReady {s : State} {code : ResultCode} (hr : readyCheck (beginOp s.blk) = code)
    (hne : code ≠ .ok) (ecid : Byte) : exec (.wait ecid) s = .next (refusedState code 3 s) := by
  rw [exec_host rfl, ← withBlk_fail_beginOp, hostEffect, waitOp, hr]
  cases code with
  | ok => exact absurd rfl hne
  | _ => rfl

theorem clearCountersOp_of_inFlight {b : Block} (hc : b.curOp ≠ .none) :
    clearCountersOp b = fail .busy 0x4 b :=
  if_pos hc

theorem clearCountersOp_of_idle {b : Block} (hc : b.curOp = .none) : clearCountersOp b =
    admitted 0x4 { b with cnt := Counters.zero, ev := { b.ev with done := true } } :=
  if_neg (not_not.2 hc)

theorem exec_clearCounters_of_inFlight {s : State} (hc : s.blk.curOp ≠ .none) :
    exec .clearCounters s = .next (refusedState .busy 4 s) := by
  rw [exec_host rfl, ← withBlk_fail_beginOp, hostEffect,
    clearCountersOp_of_inFlight (b := beginOp s.blk) hc]

/-- Settles O17: the four checks in their order, each deciding where those before it passed. -/
theorem firstFailedCheckDecides : Obligations.FirstFailedCheckDecides := by
  intro i sclass op ecid s
  refine ⟨fun hi => ⟨fun hbad => ?_, fun hlt he => ?_, fun hlt he hc => ?_, fun hlt he hc hg => ?_⟩,
    fun he => ?_, fun he hc => ?_, exec_clearCounters_of_inFlight⟩
  · exact exec_sendForm_of_error hi (admission_of_badClass hbad _)
  · have hr : readyCheck (beginOp s.blk) = .notReady := readyCheck_of_disabled he
    exact exec_sendForm_of_error hi (hr ▸ admission_of_notReady hlt (by rw [hr]; nofun))
  · have hr : readyCheck (beginOp s.blk) = .busy := readyCheck_of_inFlight he hc
    exact exec_sendForm_of_error hi (hr ▸ admission_of_notReady hlt (by rw [hr]; nofun))
  · have hr : readyCheck (beginOp s.blk) = .ok := readyCheck_of_idle he hc
    exact exec_sendForm_of_error hi (admission_of_guard hlt hr hg)
  · exact exec_wait_of_notReady (readyCheck_of_disabled he) nofun ecid
  · exact exec_wait_of_notReady (readyCheck_of_inFlight he hc) nofun ecid

/-! ### Admitted -/

/-- Settles O19: all four checks pass, and the frame is built from a descriptor that the CMD write leaves. -/
theorem sendAdmitted : Obligations.SendAdmitted := by
  intro sclass s hlt he hc hg
  have hr : readyCheck (beginOp s.blk) = .ok := readyCheck_of_idle he hc
  rw [exec_host rfl, hostEffect, sendOp, admission_of_ok hlt hr hg]
  rfl

/-- Settles O20: as O19, with the correlator armed. -/
theorem sendWaitAdmitted : Obligations.SendWaitAdmitted := by
  intro sclass ecid s hlt he hc hg
  have hr : readyCheck (beginOp s.blk) = .ok := readyCheck_of_idle he hc
  rw [exec_host rfl, hostEffect, sendWaitOp, admission_of_ok hlt hr hg]
  rfl

/-- Settles O21: checks 2 and 3 pass, and WAIT makes no other. -/
theorem waitAdmitted : Obligations.WaitAdmitted := by
  intro ecid s he hc
  have hr : readyCheck (beginOp s.blk) = .ok := readyCheck_of_idle he hc
  rw [exec_host rfl, hostEffect, waitOp, hr]
  rfl

/-! ### The other words -/

/-- Settles O15: OP 0 selects NOP's row, whose meaning is the state itself. -/
theorem nopDoesNothing : Obligations.NopDoesNothing := by
  intro w s hop
  refine ⟨?_, rfl⟩
  rw [cmdWordReadsOnlyItsFields, if_pos hop]

/-- The OP 0x6 or 0x7 is its row's OP with its own bit 0. -/
theorem reservedOp6Code_ofNat {n : Nat} (hlo : 6 ≤ n % 16) (hhi : n % 16 < 8) :
    reservedOp6Code (BitVec.ofNat 1 n) = BitVec.ofNat 4 n := by
  have hall : ∀ c : BitVec 4, 6 ≤ c.toNat → c.toNat < 8 → reservedOp6Code (c.setWidth 1) = c := by
    decide
  rw [← BitVec.toNat_ofNat n 4] at hlo hhi
  rw [← hall _ hlo hhi, BitVec.setWidth_ofNat_of_le (by decide)]

/-- The OPs 0x8 to 0xF are their row's OP with their own bits 2:0. -/
theorem reservedOp8Code_ofNat {n : Nat} (hlo : 8 ≤ n % 16) :
    reservedOp8Code (BitVec.ofNat 3 n) = BitVec.ofNat 4 n := by
  have hall : ∀ c : BitVec 4, 8 ≤ c.toNat → reservedOp8Code (c.setWidth 3) = c := by decide
  rw [← BitVec.toNat_ofNat n 4] at hlo
  rw [← hall _ hlo, BitVec.setWidth_ofNat_of_le (by decide)]

/-- Settles O16: the three RESERVED_OP rows put OP back together from the bits they keep. -/
theorem reservedOpIsRefused : Obligations.ReservedOpIsRefused := by
  intro w s hop
  refine ⟨_, cmdWordReadsOnlyItsFields w, ?_⟩
  rw [if_neg (by omega), if_neg (by omega), if_neg (by omega), if_neg (by omega), if_neg (by omega)]
  by_cases h5 : w.toNat % 16 = 5
  · have hcode : BitVec.ofNat 4 w.toNat = 0x5#4 := BitVec.eq_of_toNat_eq (by simpa using h5)
    rw [if_pos h5, hcode]
    rfl
  rw [if_neg h5]
  by_cases h8 : w.toNat % 16 < 8
  · rw [if_pos h8, ← reservedOp6Code_ofNat (by omega) h8]
    rfl
  · rw [if_neg h8, ← reservedOp8Code_ofNat (by omega)]
    rfl

/-- Settles O22: check 3 is the only one that CLEAR_COUNTERS makes. -/
theorem clearCountersOutcome : Obligations.ClearCountersOutcome := by
  intro w s hop
  constructor
  · rw [cmdWordReadsOnlyItsFields, hop]
    rfl
  · by_cases hc : s.blk.curOp = .none
    · rw [if_neg (not_not.2 hc), exec_host rfl, hostEffect,
        clearCountersOp_of_idle (b := beginOp s.blk) hc]
      rfl
    · rw [if_pos hc, exec_clearCounters_of_inFlight hc]

/-- Settles O23: bit 31 selects the row. -/
theorem ctrlWriteOutcome : Obligations.CtrlWriteOutcome := by
  intro v s
  refine ⟨fun h31 => ⟨?_, rfl⟩, fun h31 => ⟨v.getLsbD 0, v.getLsbD 1, v.getLsbD 2, ?_, rfl⟩⟩
  · rw [decode, decodeCtrl, if_pos h31]
  · rw [decode, decodeCtrl, h31, if_neg nofun]

end Sys2Proof.Machine
end

section
/-! The frame codec (41_tx_encoder.md): the checksum (R170, R184, R185) and the stuffing encoder (R172, R173). -/

namespace Sys2Proof.Machine

/-! ### The checksum -/

theorem sum8_append (xs ys : List Byte) : sum8 (xs ++ ys) = sum8 xs + sum8 ys := by
  induction xs with
  | nil => exact (BitVec.zero_add _).symm
  | cons x xs ih => rw [List.cons_append, sum8, sum8, ih, BitVec.add_assoc]

theorem sum8_singleton (x : Byte) : sum8 [x] = x := BitVec.add_zero x

/-- A byte and its complement sum to 0xFF. -/
theorem add_complement (x : Byte) : x + ~~~x = 0xFF#8 := BitVec.add_not_self x

/-- The check on a checksum is a check on the whole content (R211). -/
theorem eq_cks_iff (body : List Byte) (c : Byte) :
    c = cks body ↔ sum8 (body ++ [c]) = 0xFF#8 := by
  rw [sum8_append, sum8_singleton, ← add_complement (sum8 body), add_right_inj]
  rfl

/-- Settles O27: a built content ends in the checksum of the rest. -/
theorem builtFramesPassTheChecksum : Obligations.BuiltFramesPassTheChecksum :=
  ⟨eq_cks_iff, fun h a n m => ⟨hdr h a ++ m.slots n, rfl, (eq_cks_iff _ _).1 rfl⟩⟩

/-- Flipping a bit changes the byte. -/
theorem xor_bit_ne {k : Nat} (hk : k < 8) (x : Byte) : x ^^^ (1#8 <<< k) ≠ x := by
  intro h
  have hbit := congrArg (BitVec.getLsbD · k) h
  simp [hk] at hbit

/-- Settles O28: the sum of a content determines each of its bytes from the others. -/
theorem singleBitFlipIsDetected : Obligations.SingleBitFlipIsDetected := by
  intro pre post x k hk hsum hflip
  have hsame := hflip.trans hsum.symm
  simp only [sum8_append, sum8_singleton, add_left_inj, add_right_inj] at hsame
  exact xor_bit_ne hk x hsame

/-! ### Stuffing -/

theorem isSpecial_iff (b : Byte) : isSpecial b = true ↔ b = SOP ∨ b = EOP ∨ b = ESC := by
  simp only [isSpecial, Bool.or_eq_true, beq_iff_eq, or_assoc]

theorem isSubstitute_iff (y : Byte) :
    isSubstitute y = true ↔ y = 0x05#8 ∨ y = 0x50#8 ∨ y = 0x23#8 := by
  simp only [isSubstitute, Bool.or_eq_true, beq_iff_eq, or_assoc]

/-- The mask takes a special byte to its substitute (R101). -/
theorem isSubstitute_xor {b : Byte} (h : isSpecial b = true) : isSubstitute (b ^^^ XMASK) = true := by
  obtain rfl | rfl | rfl := (isSpecial_iff b).1 h <;> decide

/-- A substitute is none of the bytes that mean something on the wire (R102). -/
theorem not_isSpecial_of_isSubstitute {y : Byte} (h : isSubstitute y = true) :
    isSpecial y = false := by
  obtain rfl | rfl | rfl := (isSubstitute_iff y).1 h <;> decide

/-- A content byte goes out as it is, or as ESC and its substitute (R172). -/
theorem escByte_cases (b : Byte) :
    (isSpecial b = false ∧ escByte b = [b]) ∨
    (isSpecial b = true ∧ isSubstitute (b ^^^ XMASK) = true ∧ escByte b = [ESC, b ^^^ XMASK]) := by
  unfold escByte
  cases h : isSpecial b with
  | false => exact .inl ⟨rfl, rfl⟩
  | true => exact .inr ⟨rfl, isSubstitute_xor h, rfl⟩

theorem stuffBody_cons (b : Byte) (bs : List Byte) :
    stuffBody (b :: bs) = escByte b ++ stuffBody bs := List.flatMap_cons

theorem ne_of_not_isSpecial {b : Byte} (h : isSpecial b = false) : b ≠ SOP ∧ b ≠ EOP ∧ b ≠ ESC := by
  simpa only [isSpecial, Bool.or_eq_false_iff, beq_eq_false_iff_ne, and_assoc] using h

/-- No delimiter goes out for a content byte. -/
theorem not_delimiter_of_mem_escByte {b x : Byte} (h : x ∈ escByte b) : x ≠ SOP ∧ x ≠ EOP := by
  have plain : ∀ {y : Byte}, isSpecial y = false → y ≠ SOP ∧ y ≠ EOP := fun hy =>
    have ⟨hsop, heop, _⟩ := ne_of_not_isSpecial hy
    ⟨hsop, heop⟩
  obtain ⟨hb, he⟩ | ⟨-, hsub, he⟩ := escByte_cases b <;> rw [he] at h
  · rw [List.mem_singleton.1 h]
    exact plain hb
  · obtain rfl | h := List.mem_cons.1 h
    · decide
    · rw [List.mem_singleton.1 h]
      exact plain (not_isSpecial_of_isSubstitute hsub)

/-- Every ESC in a stuffed content is followed by a substitute. -/
theorem substitute_follows_esc {content : List Byte} {k : Nat}
    (h : (stuffBody content)[k]? = some ESC) :
    ∃ y, (stuffBody content)[k + 1]? = some y ∧ isSubstitute y = true := by
  induction content generalizing k with
  | nil => cases h
  | cons b bs ih =>
    rw [stuffBody_cons] at h ⊢
    obtain ⟨hb, he⟩ | ⟨-, hsub, he⟩ := escByte_cases b <;> rw [he] at h ⊢
    · match k with
      | 0 => exact absurd (Option.some.inj h) (ne_of_not_isSpecial hb).2.2
      | k + 1 => exact ih h
    · match k with
      | 0 => exact ⟨_, rfl, hsub⟩
      | 1 =>
        have hplain := not_isSpecial_of_isSubstitute hsub
        exact absurd (Option.some.inj h) (ne_of_not_isSpecial hplain).2.2
      | k + 2 => exact ih h

theorem stuffBody_length (content : List Byte) :
    (stuffBody content).length = content.length + content.countP isSpecial := by
  induction content with
  | nil => rfl
  | cons b bs ih =>
    rw [stuffBody_cons, List.length_append, ih, List.countP_cons, List.length_cons]
    obtain ⟨hb, he⟩ | ⟨hb, -, he⟩ := escByte_cases b <;> rw [he, hb]
    · simp only [List.length_singleton, Bool.false_eq_true, if_false]
      omega
    · simp only [List.length_cons, List.length_nil, if_true]
      omega

/-- What goes out for the first content byte determines it, whatever follows. -/
theorem escByte_append_inj {a b : Byte} {xs ys : List Byte}
    (h : escByte a ++ xs = escByte b ++ ys) : a = b ∧ xs = ys := by
  obtain ⟨ha, hea⟩ | ⟨-, -, hea⟩ := escByte_cases a <;>
    obtain ⟨hb, heb⟩ | ⟨-, -, heb⟩ := escByte_cases b <;>
    rw [hea, heb] at h <;> obtain ⟨hhead, htail⟩ := List.cons.inj h
  · exact ⟨hhead, htail⟩
  · exact absurd hhead (ne_of_not_isSpecial ha).2.2
  · exact absurd hhead.symm (ne_of_not_isSpecial hb).2.2
  · obtain ⟨hxor, hrest⟩ := List.cons.inj htail
    exact ⟨(BitVec.xor_left_inj XMASK).1 hxor, hrest⟩

theorem escByte_ne_nil (b : Byte) : escByte b ≠ [] := by
  obtain ⟨-, h⟩ | ⟨-, -, h⟩ := escByte_cases b <;> rw [h] <;> nofun

theorem stuffBody_injective {c d : List Byte} (h : stuffBody c = stuffBody d) : c = d := by
  induction c generalizing d with
  | nil =>
    cases d with
    | nil => rfl
    | cons b bs =>
      rw [stuffBody_cons] at h
      exact absurd (List.append_eq_nil_iff.1 h.symm).1 (escByte_ne_nil b)
  | cons a as ih =>
    cases d with
    | nil =>
      rw [stuffBody_cons] at h
      exact absurd (List.append_eq_nil_iff.1 h).1 (escByte_ne_nil a)
    | cons b bs =>
      rw [stuffBody_cons, stuffBody_cons] at h
      obtain ⟨rfl, hrest⟩ := escByte_append_inj h
      rw [ih hrest]

/-- Settles O29: each property by induction on the content, from what goes out for one byte. -/
theorem stuffProperties : Obligations.StuffProperties := by
  refine ⟨fun content => ⟨stuffBody content, rfl, fun b hb => ?_, fun k hk => ?_, ?_⟩,
    fun c d h => ?_⟩
  · obtain ⟨_, -, hmem⟩ := List.mem_flatMap.1 hb
    exact not_delimiter_of_mem_escByte hmem
  · obtain ⟨y, hy, hsub⟩ := substitute_follows_esc hk
    rw [hy]
    simpa only [Option.some.injEq] using (isSubstitute_iff y).1 hsub
  · rw [stuff_length, stuffBody_length, Nat.add_right_comm]
    rfl
  · rw [stuff_eq_cons, stuff_eq_cons] at h
    exact stuffBody_injective (List.append_cancel_right (List.cons.inj h).2)

end Sys2Proof.Machine
end

section
/-! The transmit agent (41_tx_encoder.md section 4) and the force-stop (section 5): what a TX turn does in each
case, and what every step keeps of the frame in progress and of the debug tee. -/

open Sys2Proof.Statements

namespace Sys2Proof.Machine

/-! ### The frame in progress -/

/-- The frame being emitted (R61). -/
def Block.onWire (b : Block) : TxCur × List Byte × Nat := (b.txCur, b.txWire, b.txPos)

/-- WireInv speaks of the frame being emitted alone. -/
theorem State.WireInv.of_onWire {s t : State} (h : s.WireInv) (hw : t.blk.onWire = s.blk.onWire) :
    t.WireInv := by
  simp only [Block.onWire, Prod.mk.injEq] at hw
  obtain ⟨hcur, hwire, hpos⟩ := hw
  unfold State.WireInv
  rw [hcur, hwire, hpos]
  exact h

theorem onWire_of_opState {b b' : Block} (h : b.opState = b'.opState) : b.onWire = b'.onWire := by
  simp only [Block.opState, Prod.mk.injEq] at h
  obtain ⟨-, -, -, -, hcur, hwire, hpos⟩ := h
  simp only [Block.onWire, hcur, hwire, hpos]

/-- A received byte leaves the frame being emitted alone. -/
theorem rxByte_onWire (p : Params) (x : Byte) (b : Block) :
    (rxByte p x b).onWire = b.onWire := by
  obtain ⟨-, -, body, -, hb⟩ | hb := rxByte_completes_or_frame p x b
  · refine (congrArg Block.onWire hb).trans ?_
    obtain ⟨-, -, -, hop⟩ | ⟨-, -, -, hop⟩ := correlate_capture (parse body)
      { b with cnt := { b.cnt with ok := b.cnt.ok + 1 } }
    · exact onWire_of_opState (b' := { b with waiting := false }) hop
    · exact onWire_of_opState (b' := b) hop
  · exact (congrArg Block.onWire hb).trans rfl

/-- A frame that starts has its rest left after its SOP, and one that goes on emits no last byte. -/
theorem State.WireInv.after_txByte (s : State) {x : Byte} {b : Block}
    (hb : txByte s.blk = some (x, b)) : (s.withBlk b).WireInv := by
  have hstart : ∀ c : List Byte, 1 < (stuff c).length := fun c => by rw [stuff_length]; omega
  obtain ⟨-, ⟨-, -, c, -, rfl⟩ | ⟨-, -, -, c, -, rfl⟩ | ⟨-, hx, hlast, rfl⟩ | ⟨-, -, -, rfl⟩ |
    ⟨-, -, -, rfl⟩⟩ := txByte_cases hb
  · exact fun _ => hstart c
  · exact fun _ => hstart c
  · obtain ⟨hpos, -⟩ := List.getElem?_eq_some_iff.1 hx
    exact fun _ => Nat.lt_of_le_of_ne hpos hlast
  · exact fun hne => absurd rfl hne
  · exact fun hne => absurd rfl hne

/-- Settles O58: only the TX agent's step and a reset touch the frame being emitted. -/
theorem stepKeepsWireInv : Obligations.StepKeepsWireInv := by
  intro s t h hstep
  have hkept : (s.withBlk t.blk).WireInv :=
    step_keeps (I := fun b => (s.withBlk b).WireInv) hstep h
      (hreset := fun hne => absurd rfl hne)
      (hcheck := fun b hb =>
        hb.of_onWire ((congrArg Block.onWire (completionCheck_frame b)).trans rfl))
      (hwrite := fun v r =>
        h.of_onWire ((congrArg Block.onWire (writeReg_frame s.params v s.blk r)).trans rfl))
      (hhost := fun i hi =>
        h.of_onWire ((congrArg Block.onWire (hostEffect_frame hi rfl)).trans rfl))
      (hrx := fun x => h.of_onWire (rxByte_onWire s.params x s.blk))
      (htx := fun _ _ hb => State.WireInv.after_txByte s hb)
      (hfstop := h.of_onWire ((congrArg Block.onWire (forceStopOp_frame s.blk)).trans rfl))
  exact hkept.of_onWire rfl

/-! ### A turn without a step -/

theorem txByte_of_disabled {b : Block} (h : b.enable = false) : txByte b = none := by
  rw [txByte, h, if_neg nofun]

/-- A TX turn for which the agent has no step is used up. -/
theorem step_tx_of_none {s : State} {rest : List Event} (he : s.env.events = .tx :: rest)
    (hb : txByte s.blk = none) : step s = .next (dropEvent rest s) := by
  have hturn : txTurn (s.popped rest) = s.popped rest := by
    rw [txTurn, State.popped_blk, hb, ite_self]
  rw [step_event he, eventTurn, hturn]
  rfl

/-- So is one while the transmit stream accepts no byte. -/
theorem step_tx_of_notReady {s : State} {rest : List Event} (he : s.env.events = .tx :: rest)
    (hr : s.env.txReady = false) : step s = .next (dropEvent rest s) := by
  have hturn : txTurn (s.popped rest) = s.popped rest := by
    rw [txTurn, State.popped_txReady, hr, if_neg nofun]
  rw [step_event he, eventTurn, hturn]
  rfl

/-- So is an RX turn while ENABLE = 0 (R190). -/
theorem step_rx_of_disabled {s : State} {rest : List Event} (he : s.env.events = .rx :: rest)
    (hen : s.blk.enable = false) : step s = .next (dropEvent rest s) := by
  rw [step_event he, eventTurn, rxTurn, State.popped_blk, hen, if_neg nofun]
  rfl

/-- Settles O8: neither agent has a step while ENABLE = 0, and TX none without acceptance. -/
theorem agentsPauseWhileDisabled : Obligations.AgentsPauseWhileDisabled := by
  intro s rest
  refine ⟨fun hen he => ?_, fun hr he => step_tx_of_notReady he hr⟩
  obtain he | he := he
  · exact step_tx_of_none he (txByte_of_disabled hen)
  · exact step_rx_of_disabled he hen

/-! ### The TX agent's step -/

/-- The debug mirror changes the debug tee alone. -/
theorem mirror_eq (d : Dir) (x : Byte) (s : State) :
    mirror d x s = { s with env := { s.env with tee := teeAfter d x s } } := by
  unfold mirror teeAfter
  split <;> rfl

theorem emitTx_eq_sentByte (x : Byte) (b : Block) (rest : List Event) (s : State) :
    emitTx x b (s.popped rest) = sentByte x b rest s := by
  rw [emitTx, mirror_eq]
  rfl

/-- A TX turn for which the agent has a step, before the completion check. -/
theorem step_tx_of_some {s : State} {rest : List Event} {x : Byte} {b : Block}
    (he : s.env.events = .tx :: rest) (hr : s.env.txReady = true) (hb : txByte s.blk = some (x, b)) :
    step s = .next (sentByte x (completionCheck b) rest s) := by
  have hturn : txTurn (s.popped rest) = (sentByte x b rest s).settle := by
    rw [txTurn, State.popped_txReady, hr, if_pos rfl, State.popped_blk, hb]
    exact congrArg State.settle (emitTx_eq_sentByte x b rest s)
  rw [step_event he, eventTurn, hturn]
  rfl

theorem afterByte_of_notLast {b : Block} (h : b.txPos + 1 ≠ b.txWire.length) :
    afterByte b = { b with txPos := b.txPos + 1 } :=
  if_neg h

/-- The byte emitted is the one at the position of the frame chosen (R174, R175). -/
theorem txByte_of_startFrame {b b1 : Block} {x : Byte} (hen : b.enable = true)
    (hstart : startFrame b = some b1) (hx : b1.txWire[b1.txPos]? = some x) :
    txByte b = some (x, afterByte b1) := by
  rw [txByte, if_pos hen, hstart]
  simp only [hx]

/-- A frame that starts emits its SOP in the same step (R174). -/
theorem txByte_of_start {b b1 : Block} {c : List Byte} (hen : b.enable = true)
    (hstart : startFrame b = some b1) (hwire : b1.txWire = stuff c) (hpos : b1.txPos = 0) :
    txByte b = some (SOP, { b1 with txPos := 1 }) := by
  have hsop : b1.txWire[b1.txPos]? = some SOP := by rw [hwire, hpos]; rfl
  have hmore : b1.txPos + 1 ≠ b1.txWire.length := by rw [hwire, hpos, stuff_length]; omega
  rw [txByte_of_startFrame hen hstart hsop, afterByte_of_notLast hmore, hpos]

/-- With the transmitter idle the queued halt frame starts, whatever host frame is queued (R174). -/
theorem txByte_of_haltFrame {b : Block} {c : List Byte} (hen : b.enable = true)
    (hidle : b.txCur = .idle) (hhalt : b.haltFrame = some c) : txByte b = some (SOP,
      { b with haltFrame := none, txCur := .halt, txWire := stuff c, txPos := 1 }) := by
  have hstart : startFrame b =
      some { b with haltFrame := none, txCur := .halt, txWire := stuff c, txPos := 0 } := by
    simp only [startFrame, hidle, hhalt]
  exact txByte_of_start hen hstart rfl rfl

/-- With no halt frame queued the queued host frame starts (R174). -/
theorem txByte_of_hostFrame {b : Block} {c : List Byte} (hen : b.enable = true)
    (hidle : b.txCur = .idle) (hhalt : b.haltFrame = none) (hhost : b.hostFrame = some c) :
    txByte b = some (SOP,
      { b with hostFrame := none, txCur := .host, txWire := stuff c, txPos := 1 }) := by
  have hstart : startFrame b =
      some { b with hostFrame := none, txCur := .host, txWire := stuff c, txPos := 0 } := by
    simp only [startFrame, hidle, hhalt, hhost]
  exact txByte_of_start hen hstart rfl rfl

/-- With neither queued there is no step (R175). -/
theorem txByte_of_noFrame {b : Block} (hidle : b.txCur = .idle) (hhalt : b.haltFrame = none)
    (hhost : b.hostFrame = none) : txByte b = none := by
  have hstart : startFrame b = none := by simp only [startFrame, hidle, hhalt, hhost]
  rw [txByte, hstart, ite_self]

/-- A frame in progress emits the byte at its position (R175). -/
theorem txByte_of_inProgress {b : Block} {x : Byte} (hen : b.enable = true)
    (hcur : b.txCur ≠ .idle) (hx : b.txWire[b.txPos]? = some x) :
    txByte b = some (x, afterByte b) := by
  have hstart : startFrame b = some b := by
    cases hc : b.txCur with
    | idle => exact absurd hc hcur
    | host | halt => simp only [startFrame, hc]
  exact txByte_of_startFrame hen hstart hx

/-- Settles O39: the frame that starts keeps the operation in flight, if any, unfinished. -/
theorem frameStartTakesHaltFirst : Obligations.FrameStartTakesHaltFirst := by
  intro s rest he hr hen hidle hs
  refine ⟨fun c hhalt => ?_, fun c hhalt hhost => ?_, fun hhalt hhost => ?_⟩
  · rw [step_tx_of_some he hr (txByte_of_haltFrame hen hidle hhalt), completionCheck_of_unfinished]
    · rfl
    · intro hne
      obtain h | h | h := hs hne
      · exact .inl h
      · exact nomatch hidle.symm.trans h
      · exact .inr (.inr h)
  · rw [step_tx_of_some he hr (txByte_of_hostFrame hen hidle hhalt hhost),
      completionCheck_of_unfinished]
    · rfl
    · exact fun _ => .inr (.inl rfl)
  · exact step_tx_of_none he (txByte_of_noFrame hidle hhalt hhost)

/-- Settles O40: before its last byte a frame only moves its position. -/
theorem frameInProgressEmitsNextByte : Obligations.FrameInProgressEmitsNextByte := by
  intro s rest x he hr hen hcur hx hmore hs
  rw [step_tx_of_some he hr (txByte_of_inProgress hen hcur hx),
    afterByte_of_notLast (Nat.ne_of_lt hmore), completionCheck_of_unfinished]
  exact hs

/-! ### The end of a frame -/

theorem streamAfter_eq_streamNext (c : StreamClass) (st : StreamState) :
    streamAfter c st = streamNext c st := by
  cases c <;> rfl

/-- The EOP of a host frame (R178, R248), before the completion check. -/
theorem afterByte_of_hostLast {b : Block} (hcur : b.txCur = .host)
    (hlast : b.txPos + 1 = b.txWire.length) : afterByte b =
      { b with
        stream := streamNext b.curSclass b.stream
        curSclass := .none
        txCur := .idle
        txWire := []
        txPos := 0 } := by
  rw [afterByte, if_pos hlast, ← streamAfter_eq_streamNext]
  simp only [frameDone, hcur]

/-- The EOP of a halt frame (R179), before the completion check. -/
theorem afterByte_of_haltLast {b : Block} (hcur : b.txCur = .halt)
    (hlast : b.txPos + 1 = b.txWire.length) :
    afterByte b = { b with txCur := .idle, txWire := [], txPos := 0 } := by
  rw [afterByte, if_pos hlast]
  simp only [frameDone, hcur]

/-- An operation of which nothing is left is completed (R153). -/
theorem completionCheck_of_finished {b : Block} (hop : b.curOp ≠ .none) (hhost : b.hostFrame = none)
    (htx : b.txCur ≠ .host) (hwait : b.waiting = false) : completionCheck b =
      { b with ev := { b.ev with done := true }, curOp := .none, curSclass := .none } := by
  obtain ⟨-, -, -, -, -, h⟩ | ⟨hu, -⟩ := completionCheck_cases b
  · exact h
  · obtain h | h | h := hu hop
    · exact absurd hhost h
    · exact absurd h htx
    · exact nomatch hwait.symm.trans h

/-- Settles O41: the completion check ends the operation of a host frame unless a reply is awaited. -/
theorem frameEnd : Obligations.FrameEnd := by
  intro s rest x he hr hen hx hlast
  have emitted : s.blk.txCur ≠ .idle →
      step s = .next (sentByte x (completionCheck (afterByte s.blk)) rest s) := fun hcur =>
    step_tx_of_some he hr (txByte_of_inProgress hen hcur hx)
  refine ⟨fun hcur hhost hop hwait => ?_, fun hcur hhost hop hwait => ⟨.none, ?_⟩,
    fun hcur hs => ?_⟩
  · rw [emitted (by rw [hcur]; nofun), afterByte_of_hostLast hcur hlast,
      completionCheck_of_finished]
    · exact hop
    · exact hhost
    · nofun
    · exact hwait
  · rw [emitted (by rw [hcur]; nofun), afterByte_of_hostLast hcur hlast,
      completionCheck_of_unfinished]
    exact fun _ => .inr (.inr hwait)
  · rw [emitted (by rw [hcur]; nofun), afterByte_of_haltLast hcur hlast,
      completionCheck_of_unfinished]
    intro hne
    obtain h | h | h := hs hne
    · exact .inl h
    · exact nomatch hcur.symm.trans h
    · exact .inr (.inr h)

/-! ### The debug tee -/

/-- What a step puts on the transmit stream and on the debug tee: the byte the TX agent emits, the byte the RX
agent takes, or nothing (R177, R198). -/
theorem step_outputs {s t : State} {e : Event} {rest : List Event} (he : s.env.events = e :: rest)
    (hstep : step s = .next t) :
    (∃ x, e = .tx ∧ t.env.txOut = s.env.txOut ++ [x] ∧ t.env.tee = teeAfter .tx x s) ∨
    (∃ x chan, e = .rx ∧ s.blk.enable = true ∧ s.env.rxChan = x :: chan ∧
      t.env.txOut = s.env.txOut ∧ t.env.tee = teeAfter .rx x s) ∨
    ((e = .rx → s.blk.enable = false ∨ s.env.rxChan = []) ∧
      t.env.txOut = s.env.txOut ∧ t.env.tee = s.env.tee) := by
  cases stepCase_of_next hstep with
  | idle hnil => cases hnil.symm.trans he
  | tx x b rest' htx =>
    cases htx.symm.trans he
    rw [emitTx_eq_sentByte]
    exact .inl ⟨x, rfl, rfl, rfl⟩
  | rx x chan rest' hrx hen hc =>
    cases hrx.symm.trans he
    rw [mirror_eq]
    exact .inr (.inl ⟨x, chan, rfl, hen, hc, rfl, rfl⟩)
  | noStep e' rest' pin he' hno =>
    cases he'.symm.trans he
    refine .inr (.inr ⟨fun hrx => ?_, rfl, rfl⟩)
    subst hrx
    obtain ⟨-, -, h⟩ | ⟨h, -⟩ | ⟨h, -⟩ | ⟨h, -⟩ := hno
    · exact h
    all_goals cases h
  | read _ _ _ _ hat | busError _ _ _ _ hat | write _ _ _ _ hat | host _ _ _ _ _ hat
  | poll _ _ _ _ _ _ _ hat =>
    cases hat.1.symm.trans he
    exact .inr (.inr ⟨nofun, rfl, rfl⟩)
  | peer _ _ he' | txReady _ _ he' | fstop _ he' | rst _ he' =>
    cases he'.symm.trans he
    exact .inr (.inr ⟨nofun, rfl, rfl⟩)

theorem teeAfter_eq_append (d : Dir) (x : Byte) (s : State) : teeAfter d x s =
    s.env.tee ++ (if s.blk.debugTee = false then [] else [(d, x)]) := by
  unfold teeAfter
  cases s.blk.debugTee with
  | true => rfl
  | false => exact (List.append_nil _).symm

/-- Settles O51, from what a step puts on the transmit stream and on the debug tee. -/
theorem teeMirrorsEveryWireByte : Obligations.TeeMirrorsEveryWireByte := by
  intro s t e rest he hstep
  obtain ⟨x, rfl, hout, htee⟩ | ⟨x, chan, rfl, hen, hc, hout, htee⟩ | ⟨hrx, hout, htee⟩ :=
    step_outputs he hstep
  · refine ⟨[x], hout, Nat.le_refl _, fun hne => absurd rfl hne, ?_⟩
    rw [htee, teeAfter_eq_append]
    rfl
  · refine ⟨[], by rw [hout, List.append_nil], Nat.zero_le _, fun _ => rfl, ?_⟩
    rw [htee, teeAfter_eq_append]
    simp only [hen, hc, if_true]
    rfl
  · refine ⟨[], by rw [hout, List.append_nil], Nat.zero_le _, fun _ => rfl, ?_⟩
    rw [htee]
    refine (List.append_right_eq_self.2 (ite_eq_left_iff.2 fun _ => ?_)).symm
    cases e with
    | tx => rfl
    | rx =>
      obtain hen | hc := hrx rfl
      · simp only [hen]
        rfl
      · simp only [hc, List.take_nil, List.map_nil, ite_self]
    | _ => rfl

/-! ### The force-stop -/

/-- Settles O42: the two outcomes of a force-stop. -/
theorem forceStopOutcome : Obligations.ForceStopOutcome := by
  intro s
  refine congrArg (fun b => Host.Outcome.next (s.withBlk b)) ?_
  obtain ⟨hen, harm, h⟩ | ⟨hdrop, h⟩ := forceStopOp_cases s.blk
  · rw [h, if_pos ⟨hen, harm⟩]
    rfl
  · rw [h, if_neg hdrop]

end Sys2Proof.Machine
end

section
/-! The receive agent (42_rx_decoder.md): what one byte does in each receive state, and what a run of RX turns
makes of the bytes of the channel. -/

open Sys2Proof.Statements

namespace Sys2Proof.Machine

/-! ### One byte (R191 to R195) -/

theorem rxByte_of_hunt {b : Block} (h : b.rxState = .hunt) (p : Params) (x : Byte) :
    rxByte p x b =
      if x = SOP then { b with rxBuf := [], rxState := .body }
      else { b with cnt := { b.cnt with skip := b.cnt.skip + 1 } } := by
  simp only [rxByte, h]

theorem rxByte_of_body {b : Block} (h : b.rxState = .body) (p : Params) (x : Byte) :
    rxByte p x b =
      if x = EOP then { processFrame b.rxBuf b with rxBuf := [], rxState := .hunt }
      else if x = ESC then { b with rxState := .esc }
      else appendByte p x b := by
  simp only [rxByte, h]

theorem rxByte_of_esc {b : Block} (h : b.rxState = .esc) (p : Params) (x : Byte) :
    rxByte p x b = appendByte p (x ^^^ XMASK) { b with rxState := .body } := by
  simp only [rxByte, h]

/-- The RX agent's step changes the block and the debug tee (R190, R198). -/
theorem rxTake_eq_tookByte {s : State} (h : s.blk.enable = true) (x : Byte) :
    rxTake x s = tookByte x (rxByte s.params x s.blk) s := by
  rw [rxTake_of_enable h, mirror_eq]
  rfl

/-- A single-byte row is the RX agent's step on its byte. -/
theorem exec_of_wireOperand {i : Instr} {x : Byte} (hx : wireOperand i = some x) {s : State}
    (hen : s.blk.enable = true) : exec i s = .next (tookByte x (rxByte s.params x s.blk) s) := by
  rw [← rxTake_eq_tookByte hen]
  cases i with
  | sop | eop | esc | data => cases hx; rfl
  | _ => cases hx

theorem rxPair_of_esc {s : State} (h : s.blk.rxState = .esc) (x : Byte) : rxPair x s = rxTake x s := by
  simp only [rxPair, h]

/-- In the receive state ESC a pair row is the RX agent's step on its second byte (log entry 6). -/
theorem exec_of_pairOperand {i : Instr} {x : Byte} (hx : pairOperand i = some x) {s : State}
    (hen : s.blk.enable = true) (hs : s.blk.rxState = .esc) :
    exec i s = .next (tookByte x (rxByte s.params x s.blk) s) := by
  rw [← rxTake_eq_tookByte hen, ← rxPair_of_esc hs]
  cases i with
  | escSop | escEop | escEsc | escOther => cases hx; rfl
  | _ => cases hx

/-- Settles O31: the row HUNT of the transition. -/
theorem huntSkipsUntilSop : Obligations.HuntSkipsUntilSop := by
  intro i x s hx hen hs
  rw [exec_of_wireOperand hx hen, rxByte_of_hunt hs]
  rfl

/-- Settles O32: the row BODY of the transition, for a byte that does not end the frame. -/
theorem bodyAccumulates : Obligations.BodyAccumulates := by
  intro i x s hx hne hen hs
  rw [exec_of_wireOperand hx hen, rxByte_of_body hs, if_neg (show x ≠ EOP from hne)]
  rfl

/-- Settles O33: the row ESC of the transition, whichever row presents the byte. -/
theorem escapedByteIsContent : Obligations.EscapedByteIsContent := by
  intro i x s hx hen hs
  have hexec : exec i s = .next (tookByte x (rxByte s.params x s.blk) s) := by
    obtain hx | hx := hx
    · exact exec_of_pairOperand hx hen hs
    · exact exec_of_wireOperand hx hen
  rw [hexec, rxByte_of_esc hs]
  rfl

/-! ### A run of RX turns -/

/-- The block after RX turns on these bytes, each with its completion check (R153). -/
def received (p : Params) (xs : List Byte) (b : Block) : Block :=
  xs.foldl (fun c x => completionCheck (rxByte p x c)) b

@[simp] theorem received_nil (p : Params) (b : Block) : received p [] b = b := rfl

theorem received_cons (p : Params) (x : Byte) (xs : List Byte) (b : Block) :
    received p (x :: xs) b = received p xs (completionCheck (rxByte p x b)) := rfl

theorem received_append (p : Params) (xs ys : List Byte) (b : Block) :
    received p (xs ++ ys) b = received p ys (received p xs b) := List.foldl_append

/-- The state after RX turns on the bytes xs of the channel, `more` being the bytes behind them. -/
def tookBytes (xs more : List Byte) (rest : List Event) (s : State) : State :=
  { s with
    blk := received s.params xs s.blk
    env := { s.env with
      events := rest
      rxChan := more
      tee := if s.blk.debugTee then s.env.tee ++ xs.map (fun x => (Dir.rx, x)) else s.env.tee } }

/-- No received byte changes the bits of CTRL that the agent reads (R35). -/
theorem received_byte_ctrl (p : Params) (x : Byte) (b : Block) :
    (completionCheck (rxByte p x b)).enable = b.enable ∧
      (completionCheck (rxByte p x b)).debugTee = b.debugTee := by
  rw [completionCheck_frame]
  obtain ⟨-, -, body, -, h⟩ | h := rxByte_completes_or_frame p x b <;> rw [h]
  · obtain ⟨-, -, hc⟩ | ⟨-, -, hc⟩ | ⟨-, -, hc⟩ | ⟨-, -, hc⟩ := correlate_cases (parse body)
      { b with cnt := { b.cnt with ok := b.cnt.ok + 1 } } <;> rw [hc] <;> exact ⟨rfl, rfl⟩
  · exact ⟨rfl, rfl⟩

/-- One RX turn. -/
theorem step_rx {s : State} {x : Byte} {chan : List Byte} {rest : List Event}
    (he : s.env.events = .rx :: rest) (hen : s.blk.enable = true) (hc : s.env.rxChan = x :: chan) :
    step s = .next (tookBytes [x] chan rest s) := by
  have hrun := run_rxFetched
    (s := { s with env := { s.env with events := rest, rxChan := chan } }) hen x
  rw [mirror_eq] at hrun
  rw [step_event he, eventTurn, rxTurn, State.popped_blk, if_pos hen, State.popped_rxChan, hc]
  exact hrun

/-- An RX turn on x and then turns on xs are turns on both together. -/
theorem tookBytes_cons (x : Byte) (xs chan more : List Byte) (turns rest : List Event) (s : State) :
    tookBytes xs more rest (tookBytes [x] chan turns s) = tookBytes (x :: xs) more rest s := by
  obtain ⟨-, htee⟩ := received_byte_ctrl s.params x s.blk
  simp only [tookBytes, received_cons, received_nil, htee]
  cases s.blk.debugTee with
  | true => simp only [if_true, List.append_assoc, List.map_cons, List.map_nil, List.singleton_append]
  | false => rfl

/-- As many RX turns as bytes take these bytes. -/
theorem run_rx {xs more : List Byte} {rest : List Event} {s : State} (hen : s.blk.enable = true)
    (hc : s.env.rxChan = xs ++ more) (he : s.env.events = List.replicate xs.length .rx ++ rest) :
    Sys2Proof.core.run xs.length s = .next (tookBytes xs more rest s) := by
  induction xs generalizing s with
  | nil =>
    obtain ⟨p, b, env⟩ := s
    cases hc
    cases he
    simp only [List.length_nil, run_zero, tookBytes, received_nil, List.map_nil, List.append_nil,
      ite_self]
  | cons x xs ih =>
    rw [List.length_cons, run_next (step_rx he hen hc), ih, tookBytes_cons]
    · exact (received_byte_ctrl s.params x s.blk).1.trans hen
    · rfl
    · rfl

/-! ### Bytes without a start delimiter (R201) -/

theorem received_garbage {p : Params} {garbage : List Byte} {b : Block} (hs : b.rxState = .hunt)
    (hu : b.unfinished) (hsop : SOP ∉ garbage) : received p garbage b =
      { b with cnt := { b.cnt with skip := b.cnt.skip + BitVec.ofNat 32 garbage.length } } := by
  induction garbage generalizing b with
  | nil =>
    rw [received_nil, List.length_nil, BitVec.add_zero]
  | cons x xs ih =>
    obtain ⟨hx, hxs⟩ := not_or.1 (mt List.mem_cons.2 hsop)
    have hskip : completionCheck (rxByte p x b) =
        { b with cnt := { b.cnt with skip := b.cnt.skip + 1 } } := by
      rw [rxByte_of_hunt hs, if_neg (Ne.symm hx)]
      exact completionCheck_of_unfinished hu
    have hcount : b.cnt.skip + 1 + BitVec.ofNat 32 xs.length =
        b.cnt.skip + BitVec.ofNat 32 (x :: xs).length := by
      rw [List.length_cons, Nat.add_comm, BitVec.ofNat_add, BitVec.add_assoc]
      rfl
    rw [received_cons, hskip, ih, hcount]
    · exact hs
    · exact hu
    · exact hxs

/-- Settles O38: the run takes the garbage byte by byte, and the block counts each byte. -/
theorem garbageIsSkippedAndCounted : Obligations.GarbageIsSkippedAndCounted := by
  intro s garbage more rest hen hs hsop hu hc he
  rw [run_rx hen hc he, tookBytes, received_garbage hs hu hsop]

/-! ### The wire bytes of a content (R200) -/

/-- The block in the middle of a frame of which it has accumulated buf. -/
def Block.inBody (b : Block) (buf : List Byte) : Block := { b with rxBuf := buf, rxState := .body }

/-- The correlator neither reads nor changes the state of reception. -/
theorem correlate_inBody (f : RxFrame) (b : Block) (buf : List Byte) :
    correlate f (b.inBody buf) = (correlate f b).inBody buf := by
  have hmatch : isMatch f (b.inBody buf) = isMatch f b := rfl
  have hposition : isPosition f (b.inBody buf) = isPosition f b := rfl
  unfold correlate
  rw [hmatch, hposition]
  cases isMatch f b <;> cases isPosition f b <;> rfl

/-- Nor does frame processing, beside the content that it is given. -/
theorem processFrame_inBody (content : List Byte) (b : Block) (buf : List Byte) :
    processFrame content (b.inBody buf) = (processFrame content b).inBody buf := by
  unfold processFrame
  split
  · rfl
  · dsimp only
    split
    · rfl
    · split
      · rfl
      · exact correlate_inBody _ { b with cnt := { b.cnt with ok := b.cnt.ok + 1 } } buf

/-- A content byte in a buffer with room is appended, and the frame goes on (R194). -/
theorem appendByte_inBody {p : Params} {buf : List Byte} (hroom : buf.length < p.rxMax) (v : Byte)
    (b : Block) : appendByte p v (b.inBody buf) = b.inBody (buf ++ [v]) :=
  if_neg (Nat.ne_of_lt hroom)

/-- What goes out for a content byte comes back as that byte (R101, R193). -/
theorem received_escByte {p : Params} {b : Block} {buf : List Byte} (hu : b.unfinished)
    (hroom : buf.length < p.rxMax) (v : Byte) :
    received p (escByte v) (b.inBody buf) = b.inBody (buf ++ [v]) := by
  have hdone : completionCheck (b.inBody (buf ++ [v])) = b.inBody (buf ++ [v]) :=
    completionCheck_of_unfinished hu
  obtain ⟨hplain, hout⟩ | ⟨-, -, hout⟩ := escByte_cases v <;> rw [hout, received_cons]
  · obtain ⟨-, heop, hesc⟩ := ne_of_not_isSpecial hplain
    rw [rxByte_of_body rfl, if_neg heop, if_neg hesc, appendByte_inBody hroom, hdone, received_nil]
  · have hmarked : completionCheck (rxByte p ESC (b.inBody buf)) =
        { b.inBody buf with rxState := .esc } := completionCheck_of_unfinished hu
    have hback : v ^^^ XMASK ^^^ XMASK = v := by
      rw [BitVec.xor_assoc, BitVec.xor_self, BitVec.xor_zero]
    rw [hmarked, received_cons, rxByte_of_esc rfl, hback]
    exact (congrArg completionCheck (appendByte_inBody hroom v b)).trans hdone

/-- A stuffed content is accumulated as that content, as long as the buffer holds it. -/
theorem received_stuffBody {p : Params} {b : Block} {content buf : List Byte} (hu : b.unfinished)
    (hroom : buf.length + content.length ≤ p.rxMax) :
    received p (stuffBody content) (b.inBody buf) = b.inBody (buf ++ content) := by
  induction content generalizing buf with
  | nil => rw [List.append_nil]; rfl
  | cons v content ih =>
    rw [List.length_cons] at hroom
    rw [stuffBody_cons, received_append, received_escByte hu (by omega), ih, List.append_assoc,
      List.singleton_append]
    rw [List.length_append, List.length_singleton]
    omega

/-- A whole frame is processed at its EOP, and reception starts over (R192, R200). -/
theorem received_stuff {p : Params} {b : Block} {content : List Byte} (hs : b.rxState = .hunt)
    (hu : b.unfinished) (hroom : content.length ≤ p.rxMax) : received p (stuff content) b =
      completionCheck { processFrame content b with rxBuf := [], rxState := .hunt } := by
  have hstart : completionCheck (rxByte p SOP b) = b.inBody [] := by
    rw [rxByte_of_hunt hs, if_pos rfl]
    exact completionCheck_of_unfinished hu
  have hend : rxByte p EOP (b.inBody content) =
      { processFrame content b with rxBuf := [], rxState := .hunt } := by
    rw [rxByte_of_body rfl, if_pos rfl]
    exact congrArg (fun c : Block => { c with rxBuf := [], rxState := .hunt })
      (processFrame_inBody content b content)
  have hbody := received_stuffBody (buf := []) hu ((Nat.zero_add _).trans_le hroom)
  rw [stuff_eq_cons, received_cons, hstart, received_append, hbody, List.nil_append, received_cons,
    hend, received_nil]

/-- Settles O37: the run takes the frame byte by byte, and the block ends as its last byte leaves it. -/
theorem stuffedContentIsProcessedOnce : Obligations.StuffedContentIsProcessedOnce := by
  intro s content more rest hen hs hroom hu hc he
  exact ⟨tookBytes (stuff content) more rest s, run_rx hen hc he, received_stuff hs hu hroom,
    rfl, rfl, rfl, rfl⟩

end Sys2Proof.Machine
end

section
/-! Frame processing at the EOP (43_header_checksum.md): the three outcomes of process_frame (R210 to R214), and
the header parse on the header that the serialiser builds (R215, R219). -/

open Sys2Proof.Statements

namespace Sys2Proof.Machine

/-! ### The outcomes of process_frame (R210) -/

/-- process_frame on a content that ends in the byte c: the two checks, in R210's order. -/
theorem processFrame_concat (body : List Byte) (c : Byte) (b : Block) :
    processFrame (body ++ [c]) b =
      if c ≠ cks body then checksumFail b
      else if body = [] ∨ body.length < hlen (body.headD 0) then shortFrame b
      else correlate (parse body) { b with cnt := { b.cnt with ok := b.cnt.ok + 1 } } := by
  have hflags : body.getD 0 0 = body.headD 0 := by cases body <;> rfl
  simp only [processFrame, List.getLast?_concat, List.dropLast_concat, List.length_eq_zero_iff, hflags]

theorem processFrame_of_badChecksum {body : List Byte} {c : Byte} (hc : c ≠ cks body) (b : Block) :
    processFrame (body ++ [c]) b = checksumFail b := by
  rw [processFrame_concat, if_pos hc]

theorem processFrame_of_short {body : List Byte} (hs : body = [] ∨ body.length < hlen (body.headD 0))
    (b : Block) : processFrame (body ++ [cks body]) b = shortFrame b := by
  rw [processFrame_concat, if_neg (not_not.2 rfl), if_pos hs]

/-- A body that holds its header is not empty, since a header has at least four bytes (R111). -/
theorem processFrame_of_valid {body : List Byte} (hl : hlen (body.headD 0) ≤ body.length) (b : Block) :
    processFrame (body ++ [cks body]) b =
      correlate (parse body) { b with cnt := { b.cnt with ok := b.cnt.ok + 1 } } := by
  have hne : body ≠ [] := by
    rintro rfl
    exact absurd hl (by decide)
  rw [processFrame_concat, if_neg (not_not.2 rfl), if_neg (not_or.2 ⟨hne, Nat.not_lt_of_le hl⟩)]

/-- The row EOP in the receive state BODY: the frame is processed, and reception starts over (R192). -/
theorem exec_eop_of_body {s : State} (hen : s.blk.enable = true) (hs : s.blk.rxState = .body) :
    exec .eop s = .next (tookByte 0xD8
      { processFrame s.blk.rxBuf s.blk with rxBuf := [], rxState := .hunt } s) := by
  rw [exec_of_wireOperand rfl hen, rxByte_of_body hs]
  rfl

/-! ### Discarded frames (R212, R213) -/

/-- Settles O34: process_frame fails its first check, and that changes a counter and RX_ERR. -/
theorem checksumFailureDiscards : Obligations.ChecksumFailureDiscards := by
  intro s body c hen hs hbuf hc
  rw [exec_eop_of_body hen hs, hbuf, processFrame_of_badChecksum hc]
  rfl

/-- Settles O35: process_frame finds no checksum, or passes its first check and fails the second. -/
theorem shortFrameDiscards : Obligations.ShortFrameDiscards := by
  intro s hen hs hshort
  have hframe : processFrame s.blk.rxBuf s.blk = shortFrame s.blk := by
    obtain hempty | ⟨body, hbuf, hbody⟩ := hshort
    · rw [hempty]
      rfl
    · rw [hbuf]
      exact processFrame_of_short hbody s.blk
  rw [exec_eop_of_body hen hs, hframe]
  rfl

/-! ### The parse of a built frame (R219) -/

/-- The frame that a descriptor's HDR and AUX and a payload describe: an optional field is there exactly when
its bit of FLAGS is set (R111, R219). -/
def describedFrame (h : Word) (a : BitVec 24) (payload : List Byte) : RxFrame where
  flags := hdrFlags h
  tid := if hasTargetId (hdrFlags h) then some (auxTid a) else none
  sid := if hasSourceId (hdrFlags h) then some (auxSid a) else none
  did := hdrDid h
  cid := hdrCid h
  seq := hdrSeq h
  err := if isResponse (hdrFlags h) then some (auxErr a) else none
  payload := payload

/-- The first byte of a header is FLAGS, so the parse looks for the fields that the serialiser placed. -/
theorem headD_hdr_append (h : Word) (a : BitVec 24) (payload : List Byte) :
    (hdr h a ++ payload).headD 0 = hdrFlags h := rfl

/-- In each of the eight forms of the header the parse finds every field where the serialiser placed it, and
the payload behind them. -/
theorem parse_hdr_append (h : Word) (a : BitVec 24) (payload : List Byte) :
    parse (hdr h a ++ payload) = describedFrame h a payload := by
  have hflags : (hdr h a ++ payload).getD 0 0 = hdrFlags h := rfl
  simp only [parse, hflags]
  rw [hdr, describedFrame]
  cases hasTargetId (hdrFlags h) <;> cases hasSourceId (hdrFlags h) <;> cases isResponse (hdrFlags h) <;>
    rfl

/-- A built content is processed as a valid frame: it has its own checksum and a whole header. -/
theorem processFrame_build (h : Word) (a : BitVec 24) (n : Nat) (m : Memory) (b : Block) :
    processFrame (build h a n m) b =
      correlate (describedFrame h a (m.slots n)) { b with cnt := { b.cnt with ok := b.cnt.ok + 1 } } := by
  have hheader : hlen ((hdr h a ++ m.slots n).headD 0) ≤ (hdr h a ++ m.slots n).length := by
    rw [headD_hdr_append, ← hdr_length h a, List.length_append]
    exact Nat.le_add_right _ _
  rw [← parse_hdr_append]
  exact processFrame_of_valid hheader b

/-- Settles O30: the statement writes the fields of describedFrame out. -/
theorem parseInvertsBuild : Obligations.ParseInvertsBuild := processFrame_build

end Sys2Proof.Machine
end

section
/-! The correlator (44_correlator.md sections 1 to 3): a valid frame is captured, applied, both, or dropped
(R230 to R237), and what one step can make of the capture registers (R233). -/

open Sys2Proof.Statements

namespace Sys2Proof.Machine

/-! ### The correlator's guards and effects, as the rules write them -/

/-- The model's guard of a capture is R230's `matched`. -/
theorem isMatch_iff_awaited (f : RxFrame) (b : Block) : isMatch f b = true ↔ awaited f b := by
  simp only [isMatch, awaited, Bool.and_eq_true, beq_iff_eq]

/-- A field's place in a word is its place in a register of fewer bits. -/
theorem setWidth_field {n : Nat} (v : BitVec n) (k : Nat) :
    (field v k).setWidth 27 = v.setWidth 27 <<< k := by
  ext i hi
  rw [BitVec.getElem_setWidth, getLsbD_field, BitVec.getElem_shiftLeft]
  by_cases hk : i < k
  · simp [hk, Nat.not_le_of_lt hk]
  · have hi32 : i < 32 := by omega
    simp [hk, hi32, Nat.le_of_not_lt hk]

theorem captureHdr_eq (f : RxFrame) : captureHdr f = f.flags.setWidth 32 ||| f.did.setWidth 32 <<< 8
    ||| f.cid.setWidth 32 <<< 16 ||| f.seq.setWidth 32 <<< 24 := by
  rw [captureHdr, field, BitVec.shiftLeft_zero]
  rfl

theorem captureAux_eq (f : RxFrame) : captureAux f =
    (f.tid.getD 0).setWidth 27 ||| (f.sid.getD 0).setWidth 27 <<< 8
      ||| (f.err.getD 0).setWidth 27 <<< 16 ||| (BitVec.ofBool f.tid.isSome).setWidth 27 <<< 24
      ||| (BitVec.ofBool f.sid.isSome).setWidth 27 <<< 25
      ||| (BitVec.ofBool f.err.isSome).setWidth 27 <<< 26 := by
  simp only [captureAux, flag, BitVec.setWidth_or, setWidth_field, BitVec.shiftLeft_zero]

theorem capture_eq_capturedBlock (f : RxFrame) (b : Block) : capture f b = capturedBlock f b := by
  rw [capture, captureHdr_eq, captureAux_eq]
  rfl

/-- Four bytes placed big-endian are their number to the base 256 (R14). -/
theorem be32_eq_ofNat (a b c d : Byte) : be32 a b c d = BitVec.ofNat 32 (beNat a b c d) := by
  have hpacked := (((Packed.at_zero d).or_field c 8).or_field b 16).or_field a 24
  have hreverse : ∀ w x y z : Word, w ||| x ||| y ||| z = z ||| y ||| x ||| w := fun w x y z => by
    ac_rfl
  have hsum : (be32 a b c d).toNat = beNat a b c d := by
    rw [be32, hreverse, hpacked.toNat_eq, beNat]
    omega
  rw [← hsum, BitVec.ofNat_toNat, BitVec.setWidth_eq]

theorem applyPosition_eq_positionedBlock (f : RxFrame) (b : Block) :
    applyPosition f b = positionedBlock f b := by
  simp only [applyPosition, positionedBlock, be32_eq_ofNat, beq_iff_eq]
  by_cases h9 : f.payload.length = 9
  · simp only [h9, if_true, beq_self_eq_true]
  · simp only [h9, if_false, beq_eq_false_iff_ne.2 h9]

/-- The correlator's four cases, in the terms of R230, R232 and R237. -/
theorem correlate_awaited_notification (f : RxFrame) (b : Block) :
    (awaited f b → notification f b → correlate f b = positionedBlock f (capturedBlock f b)) ∧
    (awaited f b → ¬ notification f b → correlate f b = capturedBlock f b) ∧
    (¬ awaited f b → notification f b → correlate f b = positionedBlock f b) ∧
    (¬ awaited f b → ¬ notification f b →
      correlate f b = { b with cnt := { b.cnt with drop := b.cnt.drop + 1 } }) := by
  simp only [← isMatch_iff_awaited, ← isPosition_iff_notification, ← capture_eq_capturedBlock,
    ← applyPosition_eq_positionedBlock, Bool.not_eq_true]
  refine ⟨fun hm hp => ?_, fun hm hp => ?_, fun hm hp => ?_, fun hm hp => ?_⟩ <;>
    rw [correlate, hm, hp] <;> rfl

/-- Settles O36: a valid content passes both checks of process_frame and so reaches the correlator. -/
theorem validFrameIsCorrelated : Obligations.ValidFrameIsCorrelated := by
  rintro s body hen hs ⟨hbuf, -, hheader⟩
  refine ⟨processFrame s.blk.rxBuf s.blk, exec_eop_of_body hen hs, ?_⟩
  have hframe : processFrame s.blk.rxBuf s.blk =
      correlate (parse body) { s.blk with cnt := { s.blk.cnt with ok := s.blk.cnt.ok + 1 } } :=
    (congrArg (processFrame · s.blk) hbuf).trans (processFrame_of_valid hheader s.blk)
  rw [hframe]
  intro f b
  exact correlate_awaited_notification f b

/-! ### The capture registers -/

/-- The capture registers (R49 to R52). -/
def Block.captured (b : Block) : Word × BitVec 27 × BitVec 9 × List Byte :=
  (b.rxHdr, b.rxAux, b.rxPlen, b.rxPayload)

/-- Only an awaited frame is captured (R232). -/
theorem correlate_captured {f : RxFrame} {b : Block} (h : ¬ awaited f b) :
    (correlate f b).captured = b.captured := by
  rw [← isMatch_iff_awaited] at h
  obtain ⟨hm, -⟩ | ⟨hm, -⟩ | ⟨-, -, hc⟩ | ⟨-, -, hc⟩ := correlate_cases f b
  · exact absurd hm h
  · exact absurd hm h
  · rw [hc]; rfl
  · rw [hc]; rfl

/-- A received byte that changes the capture registers completes a valid frame that is awaited. -/
theorem rxByte_captured (p : Params) (x : Byte) (b : Block) :
    (rxByte p x b).captured = b.captured ∨
    (b.rxState = .body ∧ x = EOP ∧ ∃ body, validContent b.rxBuf body ∧ awaited (parse body) b) := by
  obtain ⟨hs, hx, body, hv, hb⟩ | hb := rxByte_completes_or_frame p x b
  · by_cases ha : awaited (parse body) b
    · exact .inr ⟨hs, hx, body, hv, ha⟩
    · exact .inl ((congrArg Block.captured hb).trans
        (correlate_captured (b := { b with cnt := { b.cnt with ok := b.cnt.ok + 1 } }) ha))
  · exact .inl ((congrArg Block.captured hb).trans rfl)

/-- A step leaves the capture registers alone, resets the block, or completes an awaited frame. -/
theorem step_captured {s t : State} (hstep : step s = .next t) :
    t.blk.captured = s.blk.captured ∨ resets s ∨
      ∃ body, completesFrame s body ∧ awaited (parse body) s.blk := by
  have checked : ∀ {b : Block}, b.captured = s.blk.captured →
      (completionCheck b).captured = s.blk.captured := fun {b} h =>
    (congrArg Block.captured (completionCheck_frame b)).trans h
  have hb := (blockStep_of_next hstep).2
  generalize t.blk = b at hb ⊢
  cases hb with
  | same => exact .inl rfl
  | checked => exact .inl (checked rfl)
  | write v r =>
    exact .inl (checked ((congrArg Block.captured (writeReg_frame s.params v s.blk r)).trans rfl))
  | host i hi => exact .inl (checked ((congrArg Block.captured (hostEffect_frame hi rfl)).trans rfl))
  | rx x chan rest he hen hc =>
    obtain hkept | ⟨hs, rfl, body, hv, ha⟩ := rxByte_captured s.params x s.blk
    · exact .inl (checked hkept)
    · exact .inr (.inr ⟨body, ⟨⟨rest, he⟩, hen, hs, ⟨chan, hc⟩, hv⟩, ha⟩)
  | tx x b ht => exact .inl (checked ((congrArg Block.captured (txByte_frame ht)).trans rfl))
  | fstop => exact .inl (checked ((congrArg Block.captured (forceStopOp_frame s.blk)).trans rfl))
  | reset hr => exact .inr (.inl hr)

/-- Settles O48: each of the four registers is a part of Block.captured. -/
theorem captureRegistersChangeOnlyAtCapture : Obligations.CaptureRegistersChangeOnlyAtCapture := by
  intro s t hstep hchange
  refine (step_captured hstep).resolve_left fun hsame => ?_
  simp only [Block.captured, Prod.mk.injEq] at hsame
  obtain ⟨hhdr, haux, hplen, hpayload⟩ := hsame
  simp only [hhdr, haux, hplen, hpayload, ne_eq, not_true_eq_false, or_self] at hchange

end Sys2Proof.Machine
end

section
/-! The stream state (44_correlator.md section 4): the guard of SEND and SEND_WAIT (R244), when the state changes
(R243), and the run of two stops (R250). -/

open Sys2Proof.Statements

namespace Sys2Proof.Machine

/-! ### The stream guard (R244) -/

/-- SEND and SEND_WAIT alike, all checks passed. -/
theorem exec_sendForm_of_ok {i : Instr} {sclass : BitVec 3} {op : BitVec 4}
    (hi : isSendForm i sclass op) {s : State} (hlt : sclass.toNat < 4) (he : s.blk.enable = true)
    (hc : s.blk.curOp = .none) (hg : guardCode sclass.toNat s.blk.stream = .ok) :
    ∃ t, exec i s = .next t ∧ t.blk.stream = s.blk.stream ∧ t.blk.resCode = .ok := by
  obtain ⟨rfl, -⟩ | ⟨ecid, rfl, -⟩ := hi
  · exact ⟨_, sendAdmitted sclass s hlt he hc hg, rfl, rfl⟩
  · exact ⟨_, sendWaitAdmitted sclass ecid s hlt he hc hg, rfl, rfl⟩

/-- SEND and SEND_WAIT alike, refused by the stream guard alone. -/
theorem exec_sendForm_of_guard {i : Instr} {sclass : BitVec 3} {op : BitVec 4}
    (hi : isSendForm i sclass op) {s : State} (hlt : sclass.toNat < 4) (he : s.blk.enable = true)
    (hc : s.blk.curOp = .none) (hg : guardCode sclass.toNat s.blk.stream ≠ .ok) :
    exec i s = .next (refusedState (guardCode sclass.toNat s.blk.stream) op s) :=
  exec_sendForm_of_error hi (admission_of_guard (b := beginOp s.blk) hlt (readyCheck_of_idle he hc) hg)

/-- Settles O18: with checks 1 to 3 passed, the code is the guard's, whether it admits or refuses. -/
theorem streamGuardTable : Obligations.StreamGuardTable := by
  intro i sclass op s hi hlt he hc
  by_cases hg : guardCode sclass.toNat s.blk.stream = .ok
  · obtain ⟨t, hexec, hstream, hcode⟩ := exec_sendForm_of_ok hi hlt he hc hg
    exact ⟨t, hexec, hstream, hcode.trans hg.symm, fun hne => absurd hcode hne⟩
  · exact ⟨_, exec_sendForm_of_guard hi hlt he hc hg, rfl, rfl, fun _ => ⟨rfl, hc⟩⟩

/-! ### When the stream state changes (R243) -/

theorem completionCheck_stream (b : Block) : (completionCheck b).stream = b.stream := by
  rw [completionCheck_frame]

/-- No received byte changes the stream state. -/
theorem rxByte_stream (p : Params) (x : Byte) (b : Block) : (rxByte p x b).stream = b.stream := by
  obtain ⟨-, -, body, -, h⟩ | h := rxByte_completes_or_frame p x b <;> rw [h]
  obtain ⟨-, -, hc⟩ | ⟨-, -, hc⟩ | ⟨-, -, hc⟩ | ⟨-, -, hc⟩ := correlate_cases (parse body)
    { b with cnt := { b.cnt with ok := b.cnt.ok + 1 } } <;> rw [hc] <;> rfl

/-- The TX agent's step changes the stream state only with the last byte of a host frame (R248). -/
theorem txByte_stream {b b' : Block} {x : Byte} (h : txByte b = some (x, b')) :
    b'.stream = b.stream ∨ (b.enable = true ∧ b.txCur = .host ∧ b.txPos + 1 = b.txWire.length ∧
      b'.stream = streamNext b.curSclass b.stream) := by
  obtain ⟨hen, ⟨-, -, c, -, rfl⟩ | ⟨-, -, -, c, -, rfl⟩ | ⟨-, -, -, rfl⟩ | ⟨-, -, -, rfl⟩ |
    ⟨hcur, -, hlast, rfl⟩⟩ := txByte_cases h
  · exact .inl rfl
  · exact .inl rfl
  · exact .inl rfl
  · exact .inl rfl
  · exact .inr ⟨hen, hcur, hlast, streamAfter_eq_streamNext _ _⟩

/-- What a step makes of the stream state: it leaves it, resets it, or makes the transition of the host frame of
which it emits the last byte. -/
theorem step_stream {s t : State} (hstep : step s = .next t) :
    t.blk.stream = s.blk.stream ∨ (resets s ∧ t.blk.stream = .unconfigured) ∨
    ((∃ rest, s.env.events = .tx :: rest) ∧ s.blk.enable = true ∧ s.blk.txCur = .host ∧
      s.blk.txPos + 1 = s.blk.txWire.length ∧
      t.blk.stream = streamNext s.blk.curSclass s.blk.stream) := by
  have checked : ∀ {b : Block}, b.stream = s.blk.stream →
      (completionCheck b).stream = s.blk.stream := fun {b} h => (completionCheck_stream b).trans h
  cases stepCase_of_next hstep with
  | idle | busError | peer | txReady | noStep => exact .inl rfl
  | read | poll => exact .inl (checked rfl)
  | write off more rest v =>
    exact .inl (checked ((congrArg Block.stream (writeReg_frame s.params v s.blk _)).trans rfl))
  | host off more rest v i hat hi hd =>
    by_cases hsoft : i = .softReset
    · subst hsoft
      exact .inr (.inl ⟨resets_of_softReset hat hd, congrArg Block.stream completionCheck_reset⟩)
    · exact .inl (checked ((congrArg Block.stream (hostEffect_frame hsoft rfl)).trans rfl))
  | rx x => exact .inl (checked (rxByte_stream s.params x s.blk))
  | tx x b rest he hr htx =>
    obtain hkept | ⟨hen, hcur, hlast, hnext⟩ := txByte_stream htx
    · exact .inl (checked hkept)
    · exact .inr (.inr ⟨⟨rest, he⟩, hen, hcur, hlast, (completionCheck_stream b).trans hnext⟩)
  | fstop => exact .inl (checked ((congrArg Block.stream (forceStopOp_frame s.blk)).trans rfl))
  | rst rest he => exact .inr (.inl ⟨.inl ⟨rest, he⟩, rfl⟩)

/-- Settles O50: a change rules out a frame of no class, whose transition leaves the stream state. -/
theorem streamChangesOnlyAtFrameEnd : Obligations.StreamChangesOnlyAtFrameEnd := by
  intro s t hstep hchange
  obtain hsame | hreset | ⟨hturn, hen, hcur, hlast, hnext⟩ := step_stream hstep
  · exact absurd hsame hchange
  · exact .inl hreset
  · refine .inr ⟨hturn, hen, hcur, hlast, fun hnone => hchange ?_, hnext⟩
    rw [hnext, hnone]
    rfl

/-! ### A CMD write -/

/-- A word that the host writes to CMD runs as its instruction, after its acknowledgement (R89, R140). -/
theorem step_cmd {s u : State} {v : Word} {i : Instr} {more : List HostStmt} {rest : List Event}
    (h : hostNext (.wr 0x00C 4 v) more rest s) (hd : decode (.cmd v) = .ok i)
    (hexec : exec i (wrote 0x00C s.blk more rest s) = .next u) (hu : u.blk.unfinished) :
    step s = .next u := by
  obtain ⟨hrun, -, -⟩ := stepRunsTheDecodedInstruction s more rest
  rw [hrun 0x00C v i h (.inl ⟨rfl, hd⟩), hexec, completedOutcome, ← settle_eq_completed,
    settle_of_unfinished hu]

/-! ### A run of TX turns -/

/-- The debug tee after the bytes xs in direction d (R177, R198). -/
def teeAfterBytes (d : Dir) (xs : List Byte) (s : State) : List (Dir × Byte) :=
  if s.blk.debugTee then s.env.tee ++ xs.map (fun x => (d, x)) else s.env.tee

/-- The state after the TX agent put the bytes xs on the transmit stream and the block became b. -/
def sentBytes (xs : List Byte) (b : Block) (rest : List Event) (s : State) : State :=
  { s with
    blk := b
    env := { s.env with
      events := rest, txOut := s.env.txOut ++ xs, tee := teeAfterBytes .tx xs s } }

/-- The bytes xs and then the bytes ys are both together, as long as DEBUG_TEE stays as it was. -/
theorem sentBytes_append {xs ys : List Byte} {b c : Block} {turns rest : List Event} {s : State}
    (hdebug : b.debugTee = s.blk.debugTee) :
    sentBytes ys c rest (sentBytes xs b turns s) = sentBytes (xs ++ ys) c rest s := by
  simp only [sentBytes, teeAfterBytes, hdebug, List.append_assoc, List.map_append]
  cases s.blk.debugTee with
  | true => simp only [if_true, List.append_assoc]
  | false => rfl

@[simp] theorem sentBytes_blk (xs : List Byte) (b : Block) (rest : List Event) (s : State) :
    (sentBytes xs b rest s).blk = b := rfl

/-- The block in which n more bytes of the frame in progress have been emitted (R175). -/
def Block.advanced (b : Block) (n : Nat) : Block := { b with txPos := b.txPos + n }

theorem Block.advanced_advanced (b : Block) (m n : Nat) :
    (b.advanced m).advanced n = b.advanced (m + n) := by
  simp only [Block.advanced, Nat.add_assoc]

/-- As many TX turns as bytes emit these bytes of a frame in progress that has more bytes behind them. -/
theorem run_tx {xs more : List Byte} {rest : List Event} {s : State} (hmore : more ≠ [])
    (hr : s.env.txReady = true) (hen : s.blk.enable = true) (hcur : s.blk.txCur ≠ .idle)
    (hs : settled s.blk) (hwire : s.blk.txWire.drop s.blk.txPos = xs ++ more)
    (he : s.env.events = List.replicate xs.length .tx ++ rest) :
    Sys2Proof.core.run xs.length s = .next (sentBytes xs (s.blk.advanced xs.length) rest s) := by
  induction xs generalizing s with
  | nil =>
    obtain ⟨p, b, env⟩ := s
    cases he
    simp only [List.length_nil, run_zero, sentBytes, teeAfterBytes, List.map_nil, List.append_nil,
      ite_self, Block.advanced, Nat.add_zero]
  | cons x xs ih =>
    have hx : s.blk.txWire[s.blk.txPos]? = some x := by
      rw [← List.head?_drop, hwire]
      rfl
    have htail : s.blk.txWire.drop (s.blk.txPos + 1) = xs ++ more := by
      rw [← List.tail_drop, hwire]
      rfl
    have hlong : s.blk.txPos + 1 < s.blk.txWire.length := by
      rw [← Nat.not_le, ← List.drop_eq_nil_iff, htail]
      exact List.append_ne_nil_of_right_ne_nil xs hmore
    have hstep : step s = .next (sentBytes [x] (s.blk.advanced 1) _ s) :=
      frameInProgressEmitsNextByte s _ x he hr hen hcur hx hlong hs
    have hdebug : (s.blk.advanced 1).debugTee = s.blk.debugTee := rfl
    have hrun := ih (s := sentBytes [x] (s.blk.advanced 1) _ s) hr hen hcur hs htail rfl
    rw [sentBytes_append hdebug, sentBytes_blk, Block.advanced_advanced, Nat.add_comm] at hrun
    exact (run_next hstep xs.length).trans hrun

/-- The block in which the queued host frame with this content has started (R174). -/
def Block.hostStarted (b : Block) (content : List Byte) : Block :=
  { b with hostFrame := none, txCur := .host, txWire := stuff content, txPos := 1 }

/-- The block after its queued host frame has been sent whole, with no reply awaited (R178, R248). -/
def Block.hostSent (b : Block) : Block :=
  { b with
    hostFrame := none
    txCur := .idle
    txWire := []
    txPos := 0
    stream := streamNext b.curSclass b.stream
    ev := { b.ev with done := true }
    curOp := .none
    curSclass := .none }

/-- The last byte of a host frame, with no reply awaited. -/
theorem step_tx_hostEnd {s : State} {x : Byte} {rest : List Event} (hr : s.env.txReady = true)
    (hen : s.blk.enable = true) (hcur : s.blk.txCur = .host) (hhost : s.blk.hostFrame = none)
    (hop : s.blk.curOp ≠ .none) (hwait : s.blk.waiting = false)
    (hx : s.blk.txWire[s.blk.txPos]? = some x) (hlast : s.blk.txPos + 1 = s.blk.txWire.length)
    (he : s.env.events = .tx :: rest) :
    step s = .next (sentBytes [x] s.blk.hostSent rest s) := by
  obtain ⟨hend, -, -⟩ := frameEnd s rest x he hr hen hx hlast
  rw [hend hcur hhost hop hwait, Block.hostSent, ← hhost]
  rfl

/-- As many TX turns as wire bytes send a queued host frame whole and complete its operation (R317). -/
theorem run_tx_hostFrame {content : List Byte} {rest : List Event} {s : State}
    (hr : s.env.txReady = true) (hen : s.blk.enable = true) (hidle : s.blk.txCur = .idle)
    (hhalt : s.blk.haltFrame = none) (hhost : s.blk.hostFrame = some content)
    (hop : s.blk.curOp ≠ .none) (hwait : s.blk.waiting = false)
    (he : s.env.events = List.replicate (stuff content).length .tx ++ rest) :
    Sys2Proof.core.run (stuff content).length s =
      .next (sentBytes (stuff content) s.blk.hostSent rest s) := by
  have hturns : s.env.events =
      .tx :: (List.replicate (stuffBody content).length .tx ++ (.tx :: rest)) := by
    rw [he, stuff_length, List.replicate_succ, List.replicate_succ', List.cons_append,
      List.append_assoc, List.singleton_append]
  obtain ⟨-, hhostStart, -⟩ := frameStartTakesHaltFirst s _ hturns hr hen hidle fun _ =>
    .inl (by rw [hhost]; nofun)
  have hstart : step s = .next (sentBytes [SOP] (s.blk.hostStarted content) _ s) :=
    hhostStart content hhalt hhost
  have hbody := run_tx (xs := stuffBody content) (more := [EOP]) (rest := .tx :: rest)
    (s := sentBytes [SOP] (s.blk.hostStarted content) _ s)
    nofun hr hen nofun (fun _ => .inr (.inl rfl)) rfl rfl
  have hstartDebug : (s.blk.hostStarted content).debugTee = s.blk.debugTee := rfl
  rw [sentBytes_append hstartDebug, sentBytes_blk] at hbody
  have hx : (stuff content)[1 + (stuffBody content).length]? = some EOP := by
    rw [Nat.add_comm, stuff_eq_cons, List.getElem?_cons_succ, List.getElem?_concat_length]
  have hlast : 1 + (stuffBody content).length + 1 = (stuff content).length := by
    rw [stuff_length]
    omega
  have hend := step_tx_hostEnd (s := sentBytes ([SOP] ++ stuffBody content)
    ((s.blk.hostStarted content).advanced (stuffBody content).length) (.tx :: rest) s)
    hr hen rfl rfl hop hwait hx hlast rfl
  have hbodyDebug : ((s.blk.hostStarted content).advanced (stuffBody content).length).debugTee =
      s.blk.debugTee := rfl
  rw [stuff_length, run_next hstart, run_add hbody, run_next hend, run_zero,
    sentBytes_append hbodyDebug]
  rfl

/-! ### Two stops (R250) -/

/-- The word OP SEND with SCLASS STOP. -/
theorem decode_stop : decode (.cmd 0x31) = .ok (.send 3) := by decide

/-- In ACTIVE a stop is admitted (R244). -/
theorem step_stop_of_active {s : State} {more : List HostStmt} {rest : List Event}
    (h : hostNext (.wr 0x00C 4 0x31) more rest s) (hen : s.blk.enable = true)
    (hop : s.blk.curOp = .none) (hactive : s.blk.stream = .active) :
    step s = .next (wrote 0x00C (admittedBlock 1 3 .send s.blk) more rest s) := by
  have hguard : guardCode (3#3).toNat s.blk.stream = .ok := by rw [hactive]; rfl
  exact step_cmd h decode_stop
    (sendAdmitted 3 (wrote 0x00C s.blk more rest s) (by decide) hen hop hguard) fun _ => .inl nofun

/-- The first stop: its frame goes out whole, and the operation completes. -/
theorem run_stop_of_active {s : State} {more : List HostStmt} {rest : List Event}
    (h : hostNext (.wr 0x00C 4 0x31) more
      (List.replicate (stuff (hostContent s.blk)).length .tx ++ rest) s)
    (hr : s.env.txReady = true) (hen : s.blk.enable = true) (hop : s.blk.curOp = .none)
    (hwait : s.blk.waiting = false) (hidle : s.blk.txCur = .idle) (hhalt : s.blk.haltFrame = none)
    (hactive : s.blk.stream = .active) :
    ∃ t, Sys2Proof.core.run ((stuff (hostContent s.blk)).length + 1) s = .next t ∧
      t.blk = (admittedBlock 1 3 .send s.blk).hostSent ∧
      t.env.txOut = s.env.txOut ++ stuff (hostContent s.blk) ∧
      t.env.events = rest ∧ t.env.program = more := by
  have hqueued : (admittedBlock 1 3 .send s.blk).hostFrame = some (hostContent s.blk) := rfl
  have hsent := run_tx_hostFrame (rest := rest)
    (s := wrote 0x00C (admittedBlock 1 3 .send s.blk) more _ s)
    hr hen hidle hhalt hqueued nofun hwait rfl
  exact ⟨_, (run_next (step_stop_of_active h hen hop hactive) _).trans hsent, rfl, rfl, rfl, rfl⟩

/-- In CONFIGURED a stop is refused STREAM_INACTIVE (R244). -/
theorem step_stop_of_configured {s : State} {more : List HostStmt} {rest : List Event}
    (h : hostNext (.wr 0x00C 4 0x31) more rest s) (hen : s.blk.enable = true)
    (hop : s.blk.curOp = .none) (hconfigured : s.blk.stream = .configured) :
    step s = .next (refusedState .streamInactive 1 (wrote 0x00C s.blk more rest s)) := by
  have hguard : guardCode (3#3).toNat s.blk.stream = .streamInactive := by rw [hconfigured]; rfl
  have hexec := exec_sendForm_of_guard (s := wrote 0x00C s.blk more rest s) (.inl ⟨rfl, rfl⟩)
    (by decide : (3#3).toNat < 4) hen hop (ne_of_eq_of_ne hguard nofun)
  exact step_cmd h decode_stop (hguard ▸ hexec) fun hne => absurd hop hne

/-- Settles O46: the first stop leaves CONFIGURED, and there the stream guard refuses the second. -/
theorem secondStopIsRefused : Obligations.SecondStopIsRefused := by
  intro s more rest hr hen hactive hop hwait hidle _ hhalt wire hprogram hevents
  obtain ⟨t, hrun, hblk, hout, hturn, hstmt⟩ :=
    run_stop_of_active ⟨hevents, hprogram⟩ hr hen hop hwait hidle hhalt hactive
  have hstream : t.blk.stream = .configured := by rw [hblk]; rfl
  have hcode : t.blk.resCode = .ok := by rw [hblk]; rfl
  have hdone : t.blk.ev.done = true := by rw [hblk]; rfl
  have hfree : t.blk.curOp = .none := by rw [hblk]; rfl
  have hnone : t.blk.hostFrame = none := by rw [hblk]; rfl
  have hon : t.blk.enable = true := by rw [hblk]; exact hen
  exact ⟨t, _, hrun, hstream, hcode, hdone, hout,
    step_stop_of_configured ⟨hturn, hstmt⟩ hon hfree hstream, hstream, rfl, rfl, rfl, hnone, rfl⟩

end Sys2Proof.Machine
end

section
/-! Events reported to the host and taken from the pin (60_exceptions.md): the `irq` output (R267) and the edges
of `force_stop` (R270); and words written out from the encodings (30_encoding.md sections 1 and 3). -/

open Sys2Proof.Statements

namespace Sys2Proof.Machine

/-! ### Written-out words -/

/-- Settles O3: a CMD word's fields are the quotients of O2; the other formats compare or slice fixed bits. -/
theorem writtenOutWordsDecode : Obligations.WrittenOutWordsDecode := by
  refine ⟨?sendWait, ?wait, ?reserved, ?otherFormats⟩
  case otherFormats => decide
  all_goals exact (cmdWordReadsOnlyItsFields _).trans rfl

/-! ### The `irq` output -/

/-- A bit of the event word is the event placed there (R36, R39). -/
theorem EventBits.word_getLsbD (e : EventBits) (k : Nat) : e.word.getLsbD k =
    (decide (k < 32) &&
      ((decide (k = 8) && e.done) || (decide (k = 9) && e.opFail) || (decide (k = 10) && e.posUpd) ||
        (decide (k = 11) && e.abort) || (decide (k = 12) && e.rxErr) ||
        (decide (k = 13) && e.fstopDrop))) := by
  simp only [EventBits.word, BitVec.getLsbD_or, getLsbD_flag, Bool.and_or_distrib_left, Bool.and_assoc]

/-- Bits 13:8 of STATUS are the stored event bits (R36). -/
theorem statusWord_event (b : Block) {k : Nat} (hk : 8 ≤ k ∧ k ≤ 13) :
    (statusWord b).getLsbD k = b.ev.word.getLsbD k := by
  have hlow : k ≠ 0 ∧ k ≠ 1 ∧ k ≠ 2 ∧ k ≠ 3 := by omega
  have hstream : b.stream.bits.getLsbD (k - 4) = false := BitVec.getLsbD_of_ge _ _ (by omega)
  rw [statusWord_getLsbD, EventBits.word_getLsbD, hstream]
  simp [hlow]

/-- Two event words share a bit of 13:8 exactly when some event is 1 in both. -/
theorem EventBits.word_shares_bit_iff (e m : EventBits) :
    (∃ i, 8 ≤ i ∧ i ≤ 13 ∧ e.word.getLsbD i = true ∧ m.word.getLsbD i = true) ↔
      (e.done ∧ m.done) ∨ (e.opFail ∧ m.opFail) ∨ (e.posUpd ∧ m.posUpd) ∨ (e.abort ∧ m.abort) ∨
        (e.rxErr ∧ m.rxErr) ∨ (e.fstopDrop ∧ m.fstopDrop) := by
  simp only [EventBits.word_getLsbD]
  constructor
  · rintro ⟨i, hlo, hhi, he, hm⟩
    interval_cases i <;> simp_all
  · rintro (h | h | h | h | h | h)
    · exact ⟨8, by simpa using h⟩
    · exact ⟨9, by simpa using h⟩
    · exact ⟨10, by simpa using h⟩
    · exact ⟨11, by simpa using h⟩
    · exact ⟨12, by simpa using h⟩
    · exact ⟨13, by simpa using h⟩

/-- Settles O10: STATUS shows the event bits at the positions of their enables, and no event is 1 at reset. -/
theorem irqIsEnabledPending : Obligations.IrqIsEnabledPending := by
  refine ⟨fun p b => ?_, rfl⟩
  have hirq : b.irq = true ↔
      ∃ i, 8 ≤ i ∧ i ≤ 13 ∧ b.ev.word.getLsbD i = true ∧ b.irqEn.word.getLsbD i = true := by
    rw [EventBits.word_shares_bit_iff]
    simp only [Block.irq, Bool.or_eq_true, Bool.and_eq_true, or_assoc]
  rw [hirq]
  refine exists_congr fun i => and_congr_right fun hlo => and_congr_right fun hhi => ?_
  rw [← statusWord_event b ⟨hlo, hhi⟩]
  rfl

/-! ### The edges of `force_stop` -/

/-- The event of `force_stop` taken off the list, and the pin at its new level. -/
def pinAt (level : Bool) (rest : List Event) (s : State) : State :=
  { s with env := { s.env with events := rest, fstopPin := level } }

/-- A rising edge runs the force-stop and R153's check. -/
theorem step_forceStop_of_rise {s : State} {rest : List Event}
    (he : s.env.events = .forceStop true :: rest) (hpin : s.env.fstopPin = false) :
    step s = .next ((pinAt true rest s).withBlk (forceStopOp s.blk)).settle := by
  obtain ⟨-, -, hrun⟩ := stepRunsTheDecodedInstruction s [] rest
  rw [hrun he hpin, ← settleOutcome_eq_completedOutcome]
  rfl

/-- A level held, or a falling edge, only moves the pin. -/
theorem step_forceStop_of_noRise {s : State} {level : Bool} {rest : List Event}
    (he : s.env.events = .forceStop level :: rest) (h : ¬ (level = true ∧ s.env.fstopPin = false)) :
    step s = .next (pinAt level rest s) := by
  have hedge : ¬ (level && !s.env.fstopPin) = true := by simpa using h
  rw [step_event he, eventTurn, forceStopTurn, State.popped_fstopPin, if_neg hedge]
  rfl

/-- R153's check sets no event but DONE, so it keeps ABORT. -/
theorem completionCheck_abort (b : Block) : (completionCheck b).ev.abort = b.ev.abort := by
  obtain ⟨-, -, -, -, -, h⟩ | ⟨-, h⟩ := completionCheck_cases b <;> rw [h]

/-- A force-stop always records ABORT (R180). -/
theorem forceStopOp_abort (b : Block) : (forceStopOp b).ev.abort = true := by
  obtain ⟨-, -, h⟩ | ⟨-, h⟩ := forceStopOp_cases b <;> rw [h]

/-- Settles O43: a rising edge runs the force-stop, which sets ABORT; any other level only moves the pin. -/
theorem onlyRisingEdgeForcesStop : Obligations.OnlyRisingEdgeForcesStop := by
  intro s rest level he
  refine ⟨?_, step_forceStop_of_noRise he⟩
  rintro ⟨rfl, hpin⟩
  have habort : (completionCheck (forceStopOp s.blk)).ev.abort = true :=
    (completionCheck_abort _).trans (forceStopOp_abort s.blk)
  exact ⟨_, step_forceStop_of_rise he hpin, habort, rfl⟩

end Sys2Proof.Machine
end

section
/-! Resets and hazards (70_reset_and_hazards.md): the two resets (R290, R291), how long a queued frame and a queued
halt take (R313, R317), and the end and the hang of a run (R318). -/

open Sys2Proof.Statements

namespace Sys2Proof.Machine

/-! ### The two resets (R290, R291) -/

/-- Settles O25: `rst` is resetBlock, and so is the soft reset, which leaves the completion check nothing to do. -/
theorem softAndHardResetAgree : Obligations.SoftAndHardResetAgree := by
  intro s more rest v
  refine ⟨step_event, fun h h31 => ?_⟩
  obtain ⟨hsoft, -⟩ := ctrlWriteOutcome v (wrote 0x004 s.blk more rest s)
  obtain ⟨hdecode, hexec⟩ := hsoft h31
  obtain ⟨hrun, -, -⟩ := stepRunsTheDecodedInstruction s more rest
  rw [hrun 0x004 v .softReset h (.inr (.inl ⟨rfl, hdecode⟩)), hexec, completedOutcome,
    ← settle_eq_completed, settle_of_unfinished fun hne => absurd rfl hne]
  rfl

/-! ### A SEND (R317, R319) -/

/-- Settles O44: a SEND is a host frame with no reply awaited. -/
theorem sendCompletesInItsWireLength : Obligations.SendCompletesInItsWireLength := by
  intro s content rest hr hen hidle hhalt hhost hop hwait he
  have hflight : s.blk.curOp ≠ .none := by rw [hop]; nofun
  refine ⟨_, run_tx_hostFrame hr hen hidle hhalt hhost hflight hwait he, rfl, rfl, ?_⟩
  rw [sentBytes_blk, Block.hostSent, ← hidle]

/-! ### The frame in progress and the halt behind it (R313, R183) -/

/-- What the frame in progress leaves alone: ENABLE, DEBUG_TEE and the queued frames. -/
def Block.behindFrame (b : Block) : Bool × Bool × Option (List Byte) × Option (List Byte) :=
  (b.enable, b.debugTee, b.haltFrame, b.hostFrame)

theorem Block.behindFrame_eq_iff {b b' : Block} : b'.behindFrame = b.behindFrame ↔
    b'.enable = b.enable ∧ b'.debugTee = b.debugTee ∧ b'.haltFrame = b.haltFrame ∧
      b'.hostFrame = b.hostFrame := by
  simp only [Block.behindFrame, Prod.mk.injEq]

theorem completionCheck_behindFrame (b : Block) :
    (completionCheck b).behindFrame = b.behindFrame :=
  (congrArg Block.behindFrame (completionCheck_frame b)).trans rfl

theorem completionCheck_onWire (b : Block) : (completionCheck b).onWire = b.onWire :=
  (congrArg Block.onWire (completionCheck_frame b)).trans rfl

/-- The byte of a frame in progress that is not its last one leaves the rest of the frame, and the last one leaves
the transmitter idle (R175, R178, R179). -/
theorem afterByte_inProgress {b : Block} (hcur : b.txCur ≠ .idle) :
    (afterByte b).behindFrame = b.behindFrame ∧ (afterByte b).onWire =
      if b.txPos + 1 = b.txWire.length then (.idle, [], 0) else (b.txCur, b.txWire, b.txPos + 1) := by
  by_cases hlast : b.txPos + 1 = b.txWire.length
  · rw [if_pos hlast]
    cases hc : b.txCur with
    | idle => exact absurd hc hcur
    | host => rw [afterByte_of_hostLast hc hlast]; exact ⟨rfl, rfl⟩
    | halt => rw [afterByte_of_haltLast hc hlast]; exact ⟨rfl, rfl⟩
  · rw [if_neg hlast, afterByte_of_notLast hlast]
    exact ⟨rfl, rfl⟩

/-- A TX turn with a frame in progress, whether or not an operation is left to complete (R175). -/
theorem step_tx_inProgress {s : State} {x : Byte} {rest : List Event} (hr : s.env.txReady = true)
    (hen : s.blk.enable = true) (hcur : s.blk.txCur ≠ .idle)
    (hx : s.blk.txWire[s.blk.txPos]? = some x) (he : s.env.events = .tx :: rest) :
    ∃ b, step s = .next (sentBytes [x] b rest s) ∧ b.behindFrame = s.blk.behindFrame ∧ b.onWire =
      if s.blk.txPos + 1 = s.blk.txWire.length then (.idle, [], 0)
      else (s.blk.txCur, s.blk.txWire, s.blk.txPos + 1) := by
  obtain ⟨hbehind, hwire⟩ := afterByte_inProgress hcur
  exact ⟨_, step_tx_of_some he hr (txByte_of_inProgress hen hcur hx),
    (completionCheck_behindFrame _).trans hbehind, (completionCheck_onWire _).trans hwire⟩

/-- As many TX turns as bytes are left send the rest of the frame in progress, whatever is queued. -/
theorem run_tx_restOfFrame {xs : List Byte} {rest : List Event} {s : State} (hxs : xs ≠ [])
    (hr : s.env.txReady = true) (hen : s.blk.enable = true) (hcur : s.blk.txCur ≠ .idle)
    (hwire : s.blk.txWire.drop s.blk.txPos = xs)
    (he : s.env.events = List.replicate xs.length .tx ++ rest) :
    ∃ b, Sys2Proof.core.run xs.length s = .next (sentBytes xs b rest s) ∧
      b.behindFrame = s.blk.behindFrame ∧ b.txCur = .idle := by
  induction xs generalizing s with
  | nil => exact absurd rfl hxs
  | cons x xs ih =>
    have hx : s.blk.txWire[s.blk.txPos]? = some x := by
      rw [← List.head?_drop, hwire]
      rfl
    have htail : s.blk.txWire.drop (s.blk.txPos + 1) = xs := by
      rw [← List.tail_drop, hwire]
      rfl
    obtain ⟨hpos, -⟩ := List.getElem?_eq_some_iff.1 hx
    have hlast : xs = [] ↔ s.blk.txPos + 1 = s.blk.txWire.length := by
      rw [← htail, List.drop_eq_nil_iff]
      omega
    obtain ⟨b, hstep, hbehind, hb⟩ := step_tx_inProgress hr hen hcur hx he
    by_cases hnil : xs = []
    · rw [if_pos (hlast.1 hnil)] at hb
      subst hnil
      exact ⟨b, (run_next hstep 0).trans (run_zero _), hbehind, congrArg Prod.fst hb⟩
    · rw [if_neg (mt hlast.2 hnil)] at hb
      simp only [Block.onWire, Prod.mk.injEq] at hb
      obtain ⟨hbcur, hbwire, hbpos⟩ := hb
      obtain ⟨hben, hdebug, -, -⟩ := Block.behindFrame_eq_iff.1 hbehind
      obtain ⟨b', hrun, hbehind', hidle⟩ := ih (s := sentBytes [x] b _ s) hnil hr (hben.trans hen)
        (ne_of_eq_of_ne hbcur hcur) (by rw [sentBytes_blk, hbwire, hbpos, htail]) rfl
      rw [sentBytes_append hdebug] at hrun
      exact ⟨b', (run_next hstep xs.length).trans hrun, hbehind'.trans hbehind, hidle⟩

/-- With the transmitter idle, a TX turn starts the queued halt frame, whether or not an operation is left to
complete (R174). -/
theorem step_tx_haltStart {s : State} {c : List Byte} {rest : List Event} (hr : s.env.txReady = true)
    (hen : s.blk.enable = true) (hidle : s.blk.txCur = .idle) (hhalt : s.blk.haltFrame = some c)
    (he : s.env.events = .tx :: rest) :
    ∃ b, step s = .next (sentBytes [SOP] b rest s) ∧ b.onWire = (.halt, stuff c, 1) ∧
      b.haltFrame = none ∧ b.hostFrame = s.blk.hostFrame := by
  obtain ⟨-, -, hnone, hhost⟩ := Block.behindFrame_eq_iff.1 (completionCheck_behindFrame
    { s.blk with haltFrame := none, txCur := .halt, txWire := stuff c, txPos := 1 })
  exact ⟨_, step_tx_of_some he hr (txByte_of_haltFrame hen hidle hhalt), completionCheck_onWire _,
    hnone, hhost⟩

/-- Settles O45: the rest of the frame leaves the transmitter idle with the halt still queued, so the next TX turn
starts it. -/
theorem haltFollowsTheFrameInProgress : Obligations.HaltFollowsTheFrameInProgress := by
  intro s halt rest hr hen hcur hpos hhalt he
  rw [← List.length_drop] at he ⊢
  have hleft : s.blk.txWire.drop s.blk.txPos ≠ [] := by
    rw [Ne, List.drop_eq_nil_iff]
    omega
  have hturns : s.env.events =
      List.replicate (s.blk.txWire.drop s.blk.txPos).length .tx ++ (.tx :: rest) := by
    rw [he, List.replicate_succ', List.append_assoc, List.singleton_append]
  obtain ⟨b, hrun, hbehind, hidle⟩ := run_tx_restOfFrame hleft hr hen hcur rfl hturns
  obtain ⟨hben, hdebug, hbhalt, hbhost⟩ := Block.behindFrame_eq_iff.1 hbehind
  obtain ⟨b', hstart, hwire, hnone, hhost⟩ :=
    step_tx_haltStart (s := sentBytes (s.blk.txWire.drop s.blk.txPos) b (.tx :: rest) s)
      hr (hben.trans hen) hidle (hbhalt.trans hhalt) rfl
  simp only [Block.onWire, Prod.mk.injEq] at hwire
  obtain ⟨hcur', hwire', hpos'⟩ := hwire
  rw [sentBytes_append hdebug] at hstart
  refine ⟨_, (run_add hrun 1).trans ((run_next hstart 0).trans (run_zero _)), ?_, hcur', hwire', hpos',
    hnone, hhost.trans hbhost, rfl⟩
  exact (List.append_assoc _ _ _).symm

/-! ### The end of a run and the hang (R318, R19) -/

/-- The state after an event that gave no agent a step, `bus` being the answers on the host bus then. -/
def State.waited (s : State) (bus : List BusReply) : State :=
  { s with env := { s.env with events := s.env.events.tail, bus := bus } }

/-- With no event to come, waiting changes nothing. -/
theorem State.waited_of_noEvent {s : State} (h : s.env.events = []) : s.waited s.env.bus = s := by
  rw [State.waited, h, List.tail_nil, ← h]

/-- Waiting brings nothing that gives an agent a step. -/
theorem State.quiescent.waited {s : State} (h : s.quiescent) (bus : List BusReply) :
    (s.waited bus).quiescent := by
  obtain ⟨htx, hrx, hevents⟩ := h
  refine ⟨htx, hrx, List.all_eq_true.2 fun e he => ?_⟩
  exact List.all_eq_true.1 hevents e (List.mem_of_mem_tail he)

/-- The TX agent has no enabled step exactly when ENABLE = 0, the stream accepts no byte, or there is no frame
(R175, R176). -/
theorem txEnabled_eq_false_iff (s : State) : s.txEnabled = false ↔
    s.blk.enable = false ∨ s.env.txReady = false ∨
      (s.blk.hostFrame = none ∧ s.blk.haltFrame = none ∧ s.blk.txCur = .idle) := by
  have hidle : (s.blk.txCur != .idle) = false ↔ s.blk.txCur = .idle := by
    cases s.blk.txCur <;> decide
  simp only [State.txEnabled, Bool.and_eq_false_iff, Bool.or_eq_false_iff, hidle, or_assoc, and_assoc,
    Option.isSome_eq_false_iff, Option.isNone_iff_eq_none]

/-- A TX turn is used up when the agent has no enabled step. -/
theorem step_tx_of_notEnabled {s : State} {rest : List Event} (h : s.txEnabled = false)
    (he : s.env.events = .tx :: rest) : step s = .next (dropEvent rest s) := by
  obtain hen | hr | ⟨hhost, hhalt, hidle⟩ := (txEnabled_eq_false_iff s).1 h
  · exact step_tx_of_none he (txByte_of_disabled hen)
  · exact step_tx_of_notReady he hr
  · exact step_tx_of_none he (txByte_of_noFrame hidle hhalt hhost)

/-- So is an RX turn (R190). -/
theorem step_rx_of_notEnabled {s : State} {rest : List Event} (h : s.rxEnabled = false)
    (he : s.env.events = .rx :: rest) : step s = .next (dropEvent rest s) := by
  by_cases hen : s.blk.enable = true
  · have hempty : s.env.rxChan = [] := by
      simpa [State.rxEnabled, hen] using h
    rw [step_event he, eventTurn, rxTurn, State.popped_blk, if_pos hen, State.popped_rxChan, hempty]
    rfl
  · exact step_rx_of_disabled he (Bool.eq_false_iff.2 hen)

/-- So is a HOST turn when the program is over (R130). -/
theorem step_host_of_over {s : State} {rest : List Event} (h : s.env.program = [])
    (he : s.env.events = .host :: rest) : step s = .next (dropEvent rest s) := by
  rw [step_event he, eventTurn, hostTurn, State.popped_program, h]
  rfl

/-- When no agent has an enabled step, a step waits, or the HOST agent makes an access (R318). -/
theorem State.quiescent.step_cases {s : State} (h : s.quiescent) :
    step s = .next (s.waited s.env.bus) ∨
      ∃ st more, hostNext st more s.env.events.tail s := by
  obtain ⟨htx, hrx, hevents⟩ := h
  have waits : ∀ {rest : List Event}, s.env.events.tail = rest →
      step s = .next (dropEvent rest s) → step s = .next (s.waited s.env.bus) := by
    rintro _ rfl hstep
    exact hstep
  cases he : s.env.events with
  | nil => exact .inl ((step_idle he).trans (congrArg _ (State.waited_of_noEvent he).symm))
  | cons e rest =>
    have hturn : e.isTurn = true := List.all_eq_true.1 hevents e (he ▸ List.mem_cons_self)
    cases e with
    | tx => exact .inl (waits (he ▸ rfl) (step_tx_of_notEnabled htx he))
    | rx => exact .inl (waits (he ▸ rfl) (step_rx_of_notEnabled hrx he))
    | host =>
      cases hp : s.env.program with
      | nil => exact .inl (waits (he ▸ rfl) (step_host_of_over hp he))
      | cons st more => exact .inr ⟨st, more, he, hp⟩
    | peer | txReady | forceStop | rst => cases hturn

/-- The program stands at a poll of a register of the window whose condition does not hold (R130). -/
theorem polling_iff (s : State) : s.polling = true ↔ ∃ zero off m more,
    s.env.program = pollStmt zero off m :: more ∧ alignedOffset off ∧
      pollMet zero m (readReg s.params s.blk (regAt s.params off)) = false := by
  have hguard (zero : Bool) (off : Nat) (m : Word) : (decide (off < 0x1000) && accessOk off 4 &&
      !pollMet zero m (readReg s.params s.blk (regAt s.params off))) = true ↔ alignedOffset off ∧
        pollMet zero m (readReg s.params s.blk (regAt s.params off)) = false := by
    simp only [Bool.and_eq_true, decide_eq_true_eq, accessOk_iff, true_and, Bool.not_eq_true',
      alignedOffset, and_comm (a := off < 0x1000)]
  constructor
  · intro h
    unfold State.polling at h
    split at h
    · next off m more hp => exact ⟨false, off, m, more, hp, (hguard false off m).1 h⟩
    · next off m more hp => exact ⟨true, off, m, more, hp, (hguard true off m).1 h⟩
    · cases h
  · rintro ⟨zero, off, m, more, hp, h⟩
    unfold State.polling
    cases zero with
    | false => rw [hp]; exact (hguard false off m).2 h
    | true => rw [hp]; exact (hguard true off m).2 h

/-- A poll whose condition does not hold reads once more and stays (R130). -/
theorem step_of_polling {s : State} (hpoll : s.polling = true) (hs : settled s.blk)
    (he : s.env.events = .host :: s.env.events.tail) :
    ∃ bus, step s = .next (s.waited bus) := by
  obtain ⟨zero, off, m, more, hp, ho, hmet⟩ := (polling_iff s).1 hpoll
  have hstep := step_poll_of_settled (rest := s.env.events.tail) ⟨he, hp⟩ ho hs
  rw [hmet, if_neg nofun, ← hp] at hstep
  exact ⟨_, hstep⟩

/-- A run that has ended does not hang: at the end there is no statement to poll with and no reply awaited. -/
theorem not_hung_of_ended {s : State} (hended : s.ended) : ¬ s.hung := by
  obtain ⟨hover, hwait, -⟩ := hended
  rintro ⟨hpoll | ⟨-, hawaits⟩, -⟩
  · obtain ⟨zero, off, m, more, hp, -⟩ := (polling_iff s).1 hpoll
    exact nomatch hover.symm.trans hp
  · exact nomatch hwait.symm.trans hawaits

/-- After the last statement a quiescent run only waits. -/
theorem step_of_over {s : State} (hover : s.env.program = []) (hq : s.quiescent) :
    step s = .next (s.waited s.env.bus) := by
  obtain hstep | ⟨st, more, -, hp⟩ := hq.step_cases
  · exact hstep
  · exact nomatch hover.symm.trans hp

theorem State.hung.waited {s : State} (h : s.hung) (bus : List BusReply) : (s.waited bus).hung := by
  obtain ⟨hcause, hq⟩ := h
  exact ⟨hcause, hq.waited bus⟩

/-- A run that hangs only waits, for as long as no operation is left to complete. -/
theorem step_of_hung {s : State} (hs : settled s.blk) (h : s.hung) :
    ∃ bus, step s = .next (s.waited bus) := by
  obtain ⟨hpoll | ⟨hover, -⟩, hq⟩ := h
  · obtain hstep | ⟨st, more, he, -⟩ := hq.step_cases
    · exact ⟨_, hstep⟩
    · exact step_of_polling hpoll hs he
  · exact ⟨_, step_of_over hover hq⟩

/-- Settles O59: an ended run and a hung one only wait, which keeps all that their definitions speak of. -/
theorem stepKeepsEndAndHang : Obligations.StepKeepsEndAndHang := by
  intro s
  refine ⟨fun ⟨hended, hhung⟩ => not_hung_of_ended hended hhung, fun hended => ?_,
    fun hflight hhung => ?_⟩
  · obtain ⟨hover, hwait, hq⟩ := hended
    exact ⟨_, step_of_over hover hq, ⟨hover, hwait, hq.waited _⟩, rfl⟩
  · obtain ⟨hs, -⟩ := (flightInv_iff s).1 hflight
    obtain ⟨bus, hstep⟩ := step_of_hung hs hhung
    exact ⟨_, hstep, hhung.waited bus, stepKeepsFlightInv s _ hflight hstep, rfl, rfl⟩

/-- A run that hangs does so after any number of steps, with the block as it was. -/
theorem run_of_hung {s : State} (hflight : s.FlightInv) (hhung : s.hung) (n : Nat) :
    ∃ t, Sys2Proof.core.run n s = .next t ∧ t.hung ∧ t.blk = s.blk := by
  induction n generalizing s with
  | zero => exact ⟨s, run_zero s, hhung, rfl⟩
  | succ n ih =>
    obtain ⟨-, -, hkeeps⟩ := stepKeepsEndAndHang s
    obtain ⟨u, hstep, huhung, huflight, hublk, -⟩ := hkeeps hflight hhung
    obtain ⟨t, hrun, hthung, htblk⟩ := ih huflight huhung
    exact ⟨t, (run_next hstep n).trans hrun, hthung, htblk.trans hublk⟩

/-- The bits of STATUS under the mask of `complete` are DONE and OP_FAIL (R36, R133). -/
theorem statusWord_and_complete (b : Block) :
    statusWord b &&& 0x300#32 = flag b.ev.done 8 ||| flag b.ev.opFail 9 := by
  apply BitVec.eq_of_getLsbD_eq
  intro k hk
  rw [BitVec.getLsbD_and, BitVec.getLsbD_or, getLsbD_flag, getLsbD_flag]
  have hmask : ∀ k < 32, (0x300#32).getLsbD k = decide (k = 8 ∨ k = 9) := by decide
  rw [hmask k hk]
  by_cases h : k = 8 ∨ k = 9
  · rw [statusWord_event b (by omega), EventBits.word_getLsbD]
    obtain rfl | rfl := h <;> simp
  · obtain ⟨h8, h9⟩ := not_or.1 h
    simp [h8, h9]

/-- Settles O60: with an operation in flight neither bit of `complete` is 1, so its poll is one that hangs. -/
theorem unansweredCompleteHangs : Obligations.UnansweredCompleteHangs := by
  intro s more hq
  refine ⟨fun hover => ⟨fun hdone => ⟨hover, hdone, hq⟩, fun hwait => ⟨.inr ⟨hover, hwait⟩, hq⟩⟩,
    fun hflight hop hfail hp => ?_⟩
  have hreg : regAt s.params 0x008 = .status := regAt_of_mem s.params (by decide)
  have hmet : pollMet false 0x300#32 (readReg s.params s.blk (regAt s.params 0x008)) = false := by
    rw [hreg]
    rw [pollMet, readReg, statusWord_and_complete, hflight.done_zero hop, hfail]
    rfl
  have hpolling : s.polling = true :=
    (polling_iff s).2 ⟨false, 0x008, 0x300#32, more, hp, ⟨rfl, by decide⟩, hmet⟩
  exact run_of_hung hflight ⟨.inl hpolling, hq⟩

end Sys2Proof.Machine
end

section
/-! The round trip of the encodings (30_encoding.md sections 1 and 3): the fields the decoder reads from the bits
the encoder writes, one format after the other, and O1 from them. -/

open Sys2Proof.Statements

namespace Sys2Proof.Machine

/-! ### A placed field, read back -/

theorem extractLsb'_field {n k : Nat} (v : BitVec n) (h : k + n ≤ 32) :
    (field v k).extractLsb' k n = v := by
  ext i hi
  have hi32 : k + i < 32 := by omega
  rw [BitVec.getElem_extractLsb', getLsbD_field, Nat.add_sub_cancel_left, BitVec.getLsbD_eq_getElem hi]
  simp [hi32]

theorem extractLsb'_field_of_disjoint {n k j m : Nat} (v : BitVec n) (h : j + m ≤ k ∨ k + n ≤ j) :
    (field v k).extractLsb' j m = 0#m := by
  ext i hi
  rw [BitVec.getElem_extractLsb', getLsbD_field, BitVec.getElem_zero]
  obtain hbelow | habove := h
  · have hk : ¬ k ≤ j + i := by omega
    simp [hk]
  · rw [BitVec.getLsbD_of_ge v _ (by omega), Bool.and_false]

/-! ### CMD: the three fields share no bit (R120 to R122) -/

theorem cmdOp_cmdWord (op : BitVec 4) (sclass : BitVec 3) (ecid : Byte) :
    cmdOp (cmdWord op sclass ecid) = op := by
  rw [cmdOp, cmdWord, BitVec.extractLsb'_or, BitVec.extractLsb'_or, extractLsb'_field op (by decide),
    extractLsb'_field_of_disjoint sclass (by decide), extractLsb'_field_of_disjoint ecid (by decide),
    BitVec.or_zero, BitVec.or_zero]

theorem cmdSclass_cmdWord (op : BitVec 4) (sclass : BitVec 3) (ecid : Byte) :
    cmdSclass (cmdWord op sclass ecid) = sclass := by
  rw [cmdSclass, cmdWord, BitVec.extractLsb'_or, BitVec.extractLsb'_or,
    extractLsb'_field_of_disjoint op (by decide), extractLsb'_field sclass (by decide),
    extractLsb'_field_of_disjoint ecid (by decide), BitVec.zero_or, BitVec.or_zero]

theorem cmdEcid_cmdWord (op : BitVec 4) (sclass : BitVec 3) (ecid : Byte) :
    cmdEcid (cmdWord op sclass ecid) = ecid := by
  rw [cmdEcid, cmdWord, BitVec.extractLsb'_or, BitVec.extractLsb'_or,
    extractLsb'_field_of_disjoint op (by decide), extractLsb'_field_of_disjoint sclass (by decide),
    extractLsb'_field ecid (by decide), BitVec.zero_or, BitVec.zero_or]

/-- The bits that a RESERVED_OP row of several OPs keeps are low bits of the OP. -/
theorem lowBits_eq_setWidth_cmdOp (w : Word) {m : Nat} (hm : m ≤ 4) :
    w.extractLsb' 0 m = (cmdOp w).setWidth m := by
  ext i hi
  have hi4 : i < 4 := by omega
  rw [BitVec.getElem_extractLsb', BitVec.getElem_setWidth, cmdOp, BitVec.getLsbD_extractLsb']
  simp [hi4]

/-- O2's reading of a CMD word, of a word that is put together from its fields. -/
theorem decode_cmdWord (op : BitVec 4) (sclass : BitVec 3) (ecid : Byte) :
    decode (.cmd (cmdWord op sclass ecid)) = .ok
      (if op.toNat = 0 then .nop
       else if op.toNat = 1 then .send sclass
       else if op.toNat = 2 then .sendWait sclass ecid
       else if op.toNat = 3 then .wait ecid
       else if op.toNat = 4 then .clearCounters
       else if op.toNat = 5 then .reservedOp5
       else if op.toNat < 8 then .reservedOp6 (op.setWidth 1)
       else .reservedOp8 (op.setWidth 3)) := by
  rw [cmdWordReadsOnlyItsFields]
  simp only [← cmdOp_toNat, ← cmdSclass_eq_ofNat, ← cmdEcid_eq_ofNat, ← lowBits_eq_ofNat,
    lowBits_eq_setWidth_cmdOp _ (show 1 ≤ 4 by decide), lowBits_eq_setWidth_cmdOp _ (show 3 ≤ 4 by decide),
    cmdOp_cmdWord, cmdSclass_cmdWord, cmdEcid_cmdWord]

/-- Bit 0 of 0x6 is free for the row's operand, and the OP stays 0x6 or 0x7 (R157). -/
theorem reservedOp6Code_inv (lo : BitVec 1) : 6 ≤ (reservedOp6Code lo).toNat ∧
    (reservedOp6Code lo).toNat < 8 ∧ (reservedOp6Code lo).setWidth 1 = lo := by
  revert lo; decide

/-- Bits 2:0 of 0x8 are free for the row's operand, and the OP stays 0x8 to 0xF (R157). -/
theorem reservedOp8Code_inv (lo : BitVec 3) :
    8 ≤ (reservedOp8Code lo).toNat ∧ (reservedOp8Code lo).setWidth 3 = lo := by
  revert lo; decide

theorem decode_encode_reservedOp6 (lo : BitVec 1) :
    decode (encode (.reservedOp6 lo)) = .ok (.reservedOp6 lo) := by
  obtain ⟨hge, hlt, hlo⟩ := reservedOp6Code_inv lo
  rw [encode, decode_cmdWord, if_neg (by omega), if_neg (by omega), if_neg (by omega), if_neg (by omega),
    if_neg (by omega), if_neg (by omega), if_pos hlt, hlo]

theorem decode_encode_reservedOp8 (lo : BitVec 3) :
    decode (encode (.reservedOp8 lo)) = .ok (.reservedOp8 lo) := by
  obtain ⟨hge, hlo⟩ := reservedOp8Code_inv lo
  rw [encode, decode_cmdWord, if_neg (by omega), if_neg (by omega), if_neg (by omega), if_neg (by omega),
    if_neg (by omega), if_neg (by omega), if_neg (by omega), hlo]

/-! ### CTRL and STATUS (R158, R159) -/

/-- The three flags stand at bits 0, 1 and 2, so bit 31 is 0. -/
theorem decodeCtrl_flags (en notifyApply debugTee : Bool) :
    decodeCtrl (flag en 0 ||| flag notifyApply 1 ||| flag debugTee 2) =
      .ctrlWrite en notifyApply debugTee := by
  simp only [decodeCtrl, BitVec.getLsbD_or, getLsbD_flag]
  simp

theorem decodeStatus_field (mask : BitVec 6) : decodeStatus (field mask 8) = .statusW1c mask := by
  rw [decodeStatus, extractLsb'_field mask (by decide)]

/-! ### The receive stream: a byte with no row of its own (R102, R194) -/

theorem decodeWire_of_not_isSpecial {b : Byte} (h : isSpecial b = false) : decodeWire b = .data b := by
  obtain ⟨hsop, heop, hesc⟩ := ne_of_not_isSpecial h
  rw [decodeWire, if_neg hsop, if_neg heop, if_neg hesc]

theorem ne_of_not_isSubstitute {s : Byte} (h : isSubstitute s = false) :
    s ≠ 0x05#8 ∧ s ≠ 0x50#8 ∧ s ≠ 0x23#8 := by
  simpa only [isSubstitute, Bool.or_eq_false_iff, beq_eq_false_iff_ne, and_assoc] using h

theorem decodeEscaped_of_not_isSubstitute {s : Byte} (h : isSubstitute s = false) :
    decodeEscaped s = .escOther s := by
  obtain ⟨hsop, heop, hesc⟩ := ne_of_not_isSubstitute h
  rw [decodeEscaped, if_neg hsop, if_neg heop, if_neg hesc]

theorem decode_pair_ESC (s : Byte) : decode (.pair ESC s) = .ok (decodeEscaped s) := by
  rw [decode, if_pos rfl]

/-! ### The round trip -/

/-- Settles O1, row by row: a row of fixed bits is read by computing; the others read their operands back. -/
theorem decodeInvertsEncode : Obligations.DecodeInvertsEncode := by
  intro i hwf
  cases i with
  | nop => exact decode_cmdWord 0x0#4 0 0
  | send sclass => exact decode_cmdWord 0x1#4 sclass 0
  | sendWait sclass ecid => exact decode_cmdWord 0x2#4 sclass ecid
  | wait ecid => exact decode_cmdWord 0x3#4 0 ecid
  | clearCounters => exact decode_cmdWord 0x4#4 0 0
  | reservedOp5 => exact decode_cmdWord 0x5#4 0 0
  | reservedOp6 lo => exact decode_encode_reservedOp6 lo
  | reservedOp8 lo => exact decode_encode_reservedOp8 lo
  | data b =>
    have hplain : isSpecial b = false := by simpa [Instr.wf] using hwf
    exact congrArg Except.ok (decodeWire_of_not_isSpecial hplain)
  | escOther s =>
    have hother : isSubstitute s = false := by simpa [Instr.wf] using hwf
    exact (decode_pair_ESC s).trans (congrArg Except.ok (decodeEscaped_of_not_isSubstitute hother))
  | ctrlWrite en notifyApply debugTee => exact congrArg Except.ok (decodeCtrl_flags en notifyApply debugTee)
  | statusW1c mask => exact congrArg Except.ok (decodeStatus_field mask)
  | sop | eop | esc | escSop | escEop | escEsc | forceStop | softReset => rfl

end Sys2Proof.Machine
end
